-- ==== Sys2Proof/Word.lean ====
section
/-! DEFINITION. The widths of the block's words (spec/10_state.md R20, spec/30_encoding.md R61, R65).
Bit 0 is the least significant bit everywhere (spec/00_scope.md R11); every value is unsigned (R12). -/

namespace Sys2Proof

/-- One byte, the unit in which an operation key is handed to the decoder. -/
abbrev Byte := BitVec 8

/-- The contents of `ENC_STATE`: a 3-bit state code (R21). -/
abbrev StateCode := BitVec 3

/-- The contents of `LAST_ENC_EVENT`: a 2-bit event code (R23). -/
abbrev EventCode := BitVec 2

/-- The encoder input `in`: line B is bit 1, line A is bit 0 (R61). -/
abbrev EncInput := BitVec 2

end Sys2Proof
end

