-- ==== Sys2Proof/Config.lean ====
section
/-! DEFINITION. The parameters of an instance of the block (spec/00_scope.md R8, R9).
The block leaves no result undefined, so there is no free value here. -/

namespace Sys2Proof

/-- The parameters fixed at instantiation. `DB_GUARD` and `DB_TARGET` are derived from them
(Machine/Tables.lean); the constraints of R8 and R9 are in WellFormed.lean. -/
structure Params where
  /-- `DB_W`: width of the history register. -/
  dbW : Nat
  /-- `DB_N`: window length, in samples. -/
  dbN : Nat
  /-- `RAW_W`: width of the raw sample. -/
  rawW : Nat
  /-- `POS_A`: position in `raw` of encoder line A. -/
  posA : Nat
  /-- `POS_B`: position in `raw` of encoder line B. -/
  posB : Nat
  /-- `POS_BTN`: position in `raw` of the button line. -/
  posBtn : Nat
  deriving DecidableEq, Repr

/-- The default parameters of R8 and R9, used by every vector of spec/95_test_vectors.md that names
no others. -/
def Params.standard : Params :=
  { dbW := 16, dbN := 8, rawW := 3, posA := 0, posB := 1, posBtn := 2 }

end Sys2Proof
end

