-- ==== Sys2Proof/Syntax.lean ====
section
/-! DEFINITION. The operations of the block, one constructor per row of spec/opcode_table.json
(spec/30_encoding.md R65, R66, R70), and the names of its states and events (R63, R64). -/

namespace Sys2Proof

/-- The three operation formats (R65, R66). The format is not written in an operation's bits: it is
given by the part of the block that looks at the key. -/
inductive Format
  /-- The Quadrature Decoder, key `ENC_STATE[2:0], in[1:0]`. -/
  | qd
  /-- The Debounce Filter, key `btn`. -/
  | db
  /-- The clock-level wrapper, key `rst, tick`. -/
  | ctl
  deriving DecidableEq, Repr

/-- `EncoderState`, the seven named states (R63). -/
inductive EncState
  | idle
  | cwA
  | cwB
  | cwC
  | ccwA
  | ccwB
  | ccwC
  deriving DecidableEq, Repr

/-- `EncoderEvent`, the three named events (R64). -/
inductive EncEvent
  | none
  | clockwiseClick
  | counterClockwiseClick
  deriving DecidableEq, Repr

/-- The operations. A row whose mask leaves bits of its key free (`QD_RSVD`, `CTL_RESET`) carries
those bits, so that no bit of a key is lost; its meaning does not look at them (log 8). -/
inductive Instr
  /-- `QD.IDLE.0`: state `Idle`, input 0 (R103). -/
  | qdIdle0
  /-- `QD.IDLE.1`: state `Idle`, input 1 (R104). -/
  | qdIdle1
  /-- `QD.IDLE.2`: state `Idle`, input 2 (R105). -/
  | qdIdle2
  /-- `QD.IDLE.3`: state `Idle`, input 3 (R106). -/
  | qdIdle3
  /-- `QD.CW_A.0`: state `CW_A`, input 0 (R107). -/
  | qdCwA0
  /-- `QD.CW_A.1`: state `CW_A`, input 1 (R108). -/
  | qdCwA1
  /-- `QD.CW_A.2`: state `CW_A`, input 2 (R109). -/
  | qdCwA2
  /-- `QD.CW_A.3`: state `CW_A`, input 3 (R110). -/
  | qdCwA3
  /-- `QD.CW_B.0`: state `CW_B`, input 0 (R111). -/
  | qdCwB0
  /-- `QD.CW_B.1`: state `CW_B`, input 1 (R112). -/
  | qdCwB1
  /-- `QD.CW_B.2`: state `CW_B`, input 2 (R113). -/
  | qdCwB2
  /-- `QD.CW_B.3`: state `CW_B`, input 3 (R114). -/
  | qdCwB3
  /-- `QD.CW_C.0`: state `CW_C`, input 0 (R115). -/
  | qdCwC0
  /-- `QD.CW_C.1`: state `CW_C`, input 1 (R116). -/
  | qdCwC1
  /-- `QD.CW_C.2`: state `CW_C`, input 2 (R117). -/
  | qdCwC2
  /-- `QD.CW_C.3`: state `CW_C`, input 3 (R118). -/
  | qdCwC3
  /-- `QD.CCW_A.0`: state `CCW_A`, input 0 (R119). -/
  | qdCcwA0
  /-- `QD.CCW_A.1`: state `CCW_A`, input 1 (R120). -/
  | qdCcwA1
  /-- `QD.CCW_A.2`: state `CCW_A`, input 2 (R121). -/
  | qdCcwA2
  /-- `QD.CCW_A.3`: state `CCW_A`, input 3 (R122). -/
  | qdCcwA3
  /-- `QD.CCW_B.0`: state `CCW_B`, input 0 (R123). -/
  | qdCcwB0
  /-- `QD.CCW_B.1`: state `CCW_B`, input 1 (R124). -/
  | qdCcwB1
  /-- `QD.CCW_B.2`: state `CCW_B`, input 2 (R125). -/
  | qdCcwB2
  /-- `QD.CCW_B.3`: state `CCW_B`, input 3 (R126). -/
  | qdCcwB3
  /-- `QD.CCW_C.0`: state `CCW_C`, input 0 (R127). -/
  | qdCcwC0
  /-- `QD.CCW_C.1`: state `CCW_C`, input 1 (R128). -/
  | qdCcwC1
  /-- `QD.CCW_C.2`: state `CCW_C`, input 2 (R129). -/
  | qdCcwC2
  /-- `QD.CCW_C.3`: state `CCW_C`, input 3 (R130). -/
  | qdCcwC3
  /-- `QD.RSVD`: state code 7, any input (R131). -/
  | qdRsvd (input : EncInput)
  /-- `DB.SAMPLE0`: an open-contact sample (R161). -/
  | dbSample0
  /-- `DB.SAMPLE1`: a closed-contact sample (R162). -/
  | dbSample1
  /-- `CTL.RESET`: `rst` high, any `tick` (R197). -/
  | ctlReset (tick : BitVec 1)
  /-- `CTL.TICK`: `rst` low, `tick` high (R191). -/
  | ctlTick
  /-- `CTL.HOLD`: `rst` and `tick` low (R198). -/
  | ctlHold
  deriving DecidableEq, Repr

end Sys2Proof
end

