-- ==== Sys2Proof/WellFormed.lean ====
section
/-! DEFINITION. What makes a parameter set and an operation well formed (spec/00_scope.md R8, R9;
spec/30_encoding.md R69). -/

namespace Sys2Proof

/-- R8: `DB_W >= 1`. -/
abbrev Params.HistoryHasBits (p : Params) : Prop := 1 ≤ p.dbW

/-- R8: `1 <= DB_N`. -/
abbrev Params.WindowNonempty (p : Params) : Prop := 1 ≤ p.dbN

/-- R8: `DB_N <= DB_W`. -/
abbrev Params.WindowFits (p : Params) : Prop := p.dbN ≤ p.dbW

/-- R9: `RAW_W >= 3`. -/
abbrev Params.RawWideEnough (p : Params) : Prop := 3 ≤ p.rawW

/-- R9: each position lies in the raw sample. -/
abbrev Params.PositionsInRaw (p : Params) : Prop :=
  p.posA < p.rawW ∧ p.posB < p.rawW ∧ p.posBtn < p.rawW

/-- R9: the three positions are pairwise distinct. -/
abbrev Params.PositionsDistinct (p : Params) : Prop :=
  p.posA ≠ p.posB ∧ p.posA ≠ p.posBtn ∧ p.posB ≠ p.posBtn

/-- The parameters describe an instance of the block: every constraint of R8 and R9 holds. -/
abbrev Params.Wf (p : Params) : Prop :=
  p.HistoryHasBits ∧ p.WindowNonempty ∧ p.WindowFits ∧
    p.RawWideEnough ∧ p.PositionsInRaw ∧ p.PositionsDistinct

/-- No operation is ill formed: the only operands are key bits typed by their width, and no encoding
of the block is left undefined (R69). -/
abbrev Instr.Wf (_i : Instr) : Prop := True

end Sys2Proof
end

