-- ==== Sys2Proof/Decode.lean ====
section
/-! DEFINITION. The codes of states and events (spec/30_encoding.md R63, R64), the operation decoder
and its encoder (R65, R66, spec/opcode_table.json). -/

namespace Sys2Proof

/-! ## Codes -/

/-- R63: the code of a state. -/
def EncState.code : EncState → StateCode
  | .idle => 0b000#3
  | .cwA => 0b001#3
  | .cwB => 0b010#3
  | .cwC => 0b011#3
  | .ccwA => 0b100#3
  | .ccwB => 0b101#3
  | .ccwC => 0b110#3

/-- R63 read backwards; code 7 is reserved and names no state (R67). -/
def EncState.ofCode (c : StateCode) : Option EncState :=
  match c.toNat with
  | 0 => some .idle
  | 1 => some .cwA
  | 2 => some .cwB
  | 3 => some .cwC
  | 4 => some .ccwA
  | 5 => some .ccwB
  | 6 => some .ccwC
  | _ => none

/-- R64: the code of an event. -/
def EncEvent.code : EncEvent → EventCode
  | .none => 0b00#2
  | .clockwiseClick => 0b01#2
  | .counterClockwiseClick => 0b10#2

/-! ## Decoding -/

/-- One row of a table with a column per encoder input 0, 1, 2, 3. -/
def byInput {α : Type} (on0 on1 on2 on3 : α) (input : EncInput) : α :=
  match input.toNat with
  | 0 => on0
  | 1 => on1
  | 2 => on2
  | _ => on3

/-- The width of a format's key (R65, R66). -/
def Format.width : Format → Nat
  | .qd => 5
  | .db => 1
  | .ctl => 2

/-- The 28 table keys of format QD: state, then input (R65, R70). -/
def qdEntry : EncState → EncInput → Instr
  | .idle => byInput .qdIdle0 .qdIdle1 .qdIdle2 .qdIdle3
  | .cwA => byInput .qdCwA0 .qdCwA1 .qdCwA2 .qdCwA3
  | .cwB => byInput .qdCwB0 .qdCwB1 .qdCwB2 .qdCwB3
  | .cwC => byInput .qdCwC0 .qdCwC1 .qdCwC2 .qdCwC3
  | .ccwA => byInput .qdCcwA0 .qdCcwA1 .qdCcwA2 .qdCcwA3
  | .ccwB => byInput .qdCcwB0 .qdCcwB1 .qdCcwB2 .qdCcwB3
  | .ccwC => byInput .qdCcwC0 .qdCcwC1 .qdCcwC2 .qdCcwC3

/-- R65: the operation of a 5-bit key; all 32 keys are defined (spec/20_memory.md R42). -/
def decodeQd (key : BitVec 5) : Instr :=
  match EncState.ofCode (key.extractLsb' 2 3) with
  | some st => qdEntry st (key.extractLsb' 0 2)
  | none => .qdRsvd (key.extractLsb' 0 2)

/-- R66: the operation of the 1-bit key `btn`. -/
def decodeDb (key : BitVec 1) : Instr :=
  match key.toNat with
  | 0 => .dbSample0
  | _ => .dbSample1

/-- R66: the operation of the 2-bit key `rst, tick`. -/
def decodeCtl (key : BitVec 2) : Instr :=
  match key.toNat with
  | 0 => .ctlHold
  | 1 => .ctlTick
  | _ => .ctlReset (key.extractLsb' 0 1)

/-- The operation of a key of the given format, the key in the low bits of a byte. -/
def decodeKey (f : Format) (b : Byte) : Instr :=
  match f with
  | .qd => decodeQd (b.setWidth 5)
  | .db => decodeDb (b.setWidth 1)
  | .ctl => decodeCtl (b.setWidth 2)

/-- Why bytes are no key at all. Every value of every key is an operation (R69), so nothing else is
rejected. -/
inductive DecodeError
  /-- There is no byte. -/
  | noByte
  /-- There is more than one byte; every key has one length (R66). -/
  | extraBytes
  /-- A bit above the key's width is set. -/
  | bitsAboveKey
  deriving DecidableEq, Repr

/-- The decoder, total on any bytes: a key stands alone in one byte, zero-extended (log 4). -/
def decode (f : Format) (bytes : List Byte) : Except DecodeError Instr :=
  match bytes with
  | [] => .error .noByte
  | [b] => if b.toNat < 2 ^ f.width then .ok (decodeKey f b) else .error .bitsAboveKey
  | _ :: _ :: _ => .error .extraBytes

/-! ## Encoding -/

/-- The format and the bytes of an operation: the column `encoding` of spec/opcode_table.json. -/
def encode : Instr → Format × List Byte
  | .qdIdle0 => (.qd, [0b00000#8])
  | .qdIdle1 => (.qd, [0b00001#8])
  | .qdIdle2 => (.qd, [0b00010#8])
  | .qdIdle3 => (.qd, [0b00011#8])
  | .qdCwA0 => (.qd, [0b00100#8])
  | .qdCwA1 => (.qd, [0b00101#8])
  | .qdCwA2 => (.qd, [0b00110#8])
  | .qdCwA3 => (.qd, [0b00111#8])
  | .qdCwB0 => (.qd, [0b01000#8])
  | .qdCwB1 => (.qd, [0b01001#8])
  | .qdCwB2 => (.qd, [0b01010#8])
  | .qdCwB3 => (.qd, [0b01011#8])
  | .qdCwC0 => (.qd, [0b01100#8])
  | .qdCwC1 => (.qd, [0b01101#8])
  | .qdCwC2 => (.qd, [0b01110#8])
  | .qdCwC3 => (.qd, [0b01111#8])
  | .qdCcwA0 => (.qd, [0b10000#8])
  | .qdCcwA1 => (.qd, [0b10001#8])
  | .qdCcwA2 => (.qd, [0b10010#8])
  | .qdCcwA3 => (.qd, [0b10011#8])
  | .qdCcwB0 => (.qd, [0b10100#8])
  | .qdCcwB1 => (.qd, [0b10101#8])
  | .qdCcwB2 => (.qd, [0b10110#8])
  | .qdCcwB3 => (.qd, [0b10111#8])
  | .qdCcwC0 => (.qd, [0b11000#8])
  | .qdCcwC1 => (.qd, [0b11001#8])
  | .qdCcwC2 => (.qd, [0b11010#8])
  | .qdCcwC3 => (.qd, [0b11011#8])
  | .qdRsvd input => (.qd, [0b11100#8 ||| input.setWidth 8])
  | .dbSample0 => (.db, [0b0#8])
  | .dbSample1 => (.db, [0b1#8])
  | .ctlReset tick => (.ctl, [0b10#8 ||| tick.setWidth 8])
  | .ctlTick => (.ctl, [0b01#8])
  | .ctlHold => (.ctl, [0b00#8])

/-! ## The host's numbering -/

/-- The format meant by a table row of `nbits` bits. The three formats' keys overlap as numbers, so a
width that is not a key's own (a whole byte) is read as format QD (log 4). -/
def tableFormat (nbits : Nat) : Format :=
  match nbits with
  | 1 => .db
  | 2 => .ctl
  | _ => .qd

/-- The low `8 * n` bits of a number, first byte least significant. -/
def bytesOfNat : Nat → Nat → List Byte
  | 0, _ => []
  | n + 1, w => BitVec.ofNat 8 w :: bytesOfNat n (w / 256)

/-- What the decoder reads from an operation whose bits are `w`. -/
def decodeTableWord (nbits w : Nat) : Option Instr :=
  if w < 2 ^ (8 * ((nbits + 7) / 8)) then
    match decode (tableFormat nbits) (bytesOfNat ((nbits + 7) / 8) w) with
    | .ok i => some i
    | .error _ => none
  else none

end Sys2Proof
end

