-- ==== Sys2Proof/Machine/Tables.lean ====
section
/-! DEFINITION. The constant tables of the decoder and the constants of the filter
(spec/40_quadrature_decoder.md R101, R102; spec/41_debounce_filter.md R165). -/

namespace Sys2Proof.Machine

/-- R101: the transition table `TT`, a row per state, a column per input 0 to 3. -/
def TT : EncState → EncInput → EncState
  | .idle => byInput .idle .cwA .ccwA .idle
  | .cwA => byInput .cwB .cwA .idle .idle
  | .cwB => byInput .cwB .cwA .cwC .idle
  | .cwC => byInput .idle .idle .cwC .idle
  | .ccwA => byInput .ccwB .idle .ccwA .idle
  | .ccwB => byInput .ccwB .ccwC .ccwA .idle
  | .ccwC => byInput .idle .ccwC .idle .idle

/-- R102: the event table `EV`, same index. -/
def EV : EncState → EncInput → EncEvent
  | .idle => byInput .none .none .none .none
  | .cwA => byInput .none .none .none .none
  | .cwB => byInput .none .none .none .none
  | .cwC => byInput .clockwiseClick .none .none .none
  | .ccwA => byInput .none .none .none .none
  | .ccwB => byInput .none .none .none .none
  | .ccwC => byInput .counterClockwiseClick .none .none .none

/-- R8, R165: `DB_GUARD`, bits `DB_W-1` down to `DB_N` set, the others clear. -/
def dbGuard (p : Params) : BitVec p.dbW :=
  BitVec.allOnes p.dbW <<< p.dbN

/-- R8, R165: `DB_TARGET`, all `DB_W` bits set. -/
def dbTarget (p : Params) : BitVec p.dbW :=
  BitVec.allOnes p.dbW

end Sys2Proof.Machine
end

