-- ==== Sys2Proof/Machine/State.lean ====
section
/-! DEFINITION. The state of one instance of the block (spec/10_state.md R20 to R24), the levels of
its input ports at the clock edges to come (spec/42_tick_dispatch.md R195), and its value after reset
(spec/10_state.md R34). -/

namespace Sys2Proof.Machine

/-- The levels of the input ports at one rising edge of `clk` (R195). -/
structure PortSample (rawW : Nat) where
  /-- `rst`: synchronous reset, active high. -/
  rst : Bool
  /-- `tick`: sample enable. -/
  tick : Bool
  /-- `raw`: the raw sample. -/
  raw : BitVec rawW
  deriving DecidableEq, Repr

/-- One instance of the block. The four registers are R20's complete list; `params` and `inputs` are
the model's own (log 1, log 3). -/
structure State where
  /-- The parameters fixed at instantiation (R32): no step changes them. -/
  params : Params
  /-- `ENC_STATE` (R21). -/
  encState : StateCode
  /-- `DB_HIST` (R22): bit 0 holds the most recent sample. -/
  dbHist : BitVec params.dbW
  /-- `LAST_ENC_EVENT` (R23). -/
  lastEncEvent : EventCode
  /-- `LAST_BTN_EVENT` (R24). -/
  lastBtnEvent : Bool
  /-- The port levels of the clock edges to come, the next edge first; the environment's, not the
  block's. -/
  inputs : List (PortSample params.rawW)
  deriving DecidableEq, Repr

/-- How the machine stops with a fault: it never does. The spec gives the block "no fault outcome, no
stuck outcome, no refusal" (spec/42_tick_dispatch.md R201), and its one fault class is handled inside
the step (spec/60_exceptions.md R210 to R213). -/
inductive Fault
  deriving DecidableEq, Repr

/-- Why an operation has no meaning in this model. -/
inductive Refusal
  /-- An arm of `exec` that gives its operation no meaning raises it; no arm does. Safe: the machine
  stops where the hardware goes on. -/
  | notModelled (mnemonic : String)
  deriving DecidableEq, Repr

/-- An instance with the given parameters after reset (R34), with the given edges to come. -/
def State.initial (p : Params) (inputs : List (PortSample p.rawW)) : State :=
  { params := p
    encState := EncState.idle.code
    dbHist := dbGuard p
    lastEncEvent := EncEvent.none.code
    lastBtnEvent := false
    inputs := inputs }

/-- The machine right after reset: the default parameters and no edge to come (log 2, log 3). -/
def State.reset : State := State.initial Params.standard []

end Sys2Proof.Machine
end

