-- ==== Sys2Proof/Machine/Operands.lean ====
section
/-! DEFINITION. The operands of the operations: the two inputs taken from the raw sample
(spec/30_encoding.md R60 to R62), the keys that select an operation (R65, R66), and their inverse,
the raw word of a stimulus (R71). -/

namespace Sys2Proof.Machine

/-- R61: `in`, line B above line A. -/
def encInput (p : Params) (raw : BitVec p.rawW) : EncInput :=
  BitVec.ofBool (raw.getLsbD p.posB) ++ BitVec.ofBool (raw.getLsbD p.posA)

/-- R62: `btn`, true for a closed contact. -/
def btnInput (p : Params) (raw : BitVec p.rawW) : Bool :=
  raw.getLsbD p.posBtn

/-- The port levels at the next rising edge. With no edge scheduled the ports are at rest: `rst` and
`tick` low, so the block holds (R198, spec/60_exceptions.md R221; log 3). -/
def State.port (s : State) : PortSample s.params.rawW :=
  s.inputs.headD { rst := false, tick := false, raw := 0 }

/-- R65: the key of the decode operation, state code above input. -/
def qdKey (code : StateCode) (input : EncInput) : BitVec 5 :=
  code ++ input

/-- R66: the key of the sample operation. -/
def dbKey (btn : Bool) : BitVec 1 :=
  BitVec.ofBool btn

/-- R66: the key of the clock-level action, `rst` above `tick`. -/
def ctlKey {w : Nat} (e : PortSample w) : BitVec 2 :=
  BitVec.ofBool e.rst ++ BitVec.ofBool e.tick

/-- A one-bit value placed at a position of the raw word. -/
def lineAt (w pos : Nat) (level : Bool) : BitVec w :=
  (BitVec.ofBool level).setWidth w <<< pos

/-- R60, R71: the raw word with the given encoder input and button level and every unowned bit 0. -/
def rawOf (p : Params) (input : EncInput) (btn : Bool) : BitVec p.rawW :=
  lineAt p.rawW p.posA (input.getLsbD 0) ||| lineAt p.rawW p.posB (input.getLsbD 1) |||
    lineAt p.rawW p.posBtn btn

/-- R71: the port levels of the tick `e/b`. -/
def tickSample (p : Params) (input : EncInput) (btn : Bool) : PortSample p.rawW :=
  { rst := false, tick := true, raw := rawOf p input btn }

end Sys2Proof.Machine
end

