-- ==== Sys2Proof/Machine/Flags.lean ====
section
/-! DEFINITION. The block has no flags (spec/10_state.md R29); what it has in their place is the level
and the edge computed by the filter (spec/41_debounce_filter.md R160, R163, R164) and the published
outputs (spec/42_tick_dispatch.md R195). -/

namespace Sys2Proof.Machine

/-- R160, R163: the level variant, `DB_HIST == DB_TARGET`. -/
def stableLevel (p : Params) (hist : BitVec p.dbW) : Bool :=
  hist == dbTarget p

/-- R160, R164: the edge variant, target reached by this update and not held before it. -/
def pressEdge (p : Params) (before after : BitVec p.dbW) : Bool :=
  stableLevel p after && before != dbTarget p

/-- The output ports (R195, spec/30_encoding.md R73). -/
structure Outputs where
  /-- `enc_event`, the code in `LAST_ENC_EVENT`. -/
  encEvent : EventCode
  /-- `btn_press`, the value of `LAST_BTN_EVENT`. -/
  btnPress : Bool
  /-- `btn_stable`, the level `BTN_STABLE` (spec/10_state.md R25). -/
  btnStable : Bool
  deriving DecidableEq, Repr

/-- What every context outside the tick may read (spec/10_state.md R26). -/
def State.outputs (s : State) : Outputs :=
  { encEvent := s.lastEncEvent
    btnPress := s.lastBtnEvent
    btnStable := stableLevel s.params s.dbHist }

end Sys2Proof.Machine
end

