-- ==== Sys2Proof/Machine/Ops.lean ====
section
/-! DEFINITION. The shared operations: the decode step (spec/40_quadrature_decoder.md R100), the sample
step (spec/41_debounce_filter.md R160), their effect on the registers, the handling of the one fault
class (spec/60_exceptions.md R212), the reset of the registers (spec/42_tick_dispatch.md R197) and
the passing of an edge. -/

namespace Sys2Proof.Machine

/-! ## The two component steps, as functions -/

/-- R100: next state code and event of the decode step. A forced reserved code goes to `Idle` with no
event (R131, spec/30_encoding.md R67). -/
def decodeStep (code : StateCode) (input : EncInput) : EncState × EncEvent :=
  match EncState.ofCode code with
  | some st => (TT st input, EV st input)
  | none => (.idle, .none)

/-- R160: the history after the sample step. Both `<<<` and `|||` stay within `DB_W` bits, so the bit
shifted out is dropped (R166). -/
def sampleStep (p : Params) (hist : BitVec p.dbW) (btn : Bool) : BitVec p.dbW :=
  hist <<< 1 ||| (BitVec.ofBool btn).setWidth p.dbW ||| dbGuard p

/-! ## Their effect on the registers -/

/-- A decode operation with this next state and event: the state register takes the next state, and
the event is published at the same instant (R100, R192, spec/10_state.md R23, R39; log 6). -/
def applyEntry (st : EncState) (ev : EncEvent) (s : State) : State :=
  { s with encState := st.code, lastEncEvent := ev.code }

/-- A sample operation on this level: the history takes the sample, and the edge is published at the
same instant (R160, R192, spec/10_state.md R24, R39; log 6). -/
def applySample (btn : Bool) (s : State) : State :=
  { s with
    dbHist := sampleStep s.params s.dbHist btn
    lastBtnEvent := pressEdge s.params s.dbHist (sampleStep s.params s.dbHist btn) }

/-- R212, the analogue of taking an exception: on input 3 the state register goes to `Idle`, the event
is `None`, and nothing is saved. There is no return operation (R213): the next tick is decoded from
`Idle` like any other. -/
def takeDesync (s : State) : State :=
  applyEntry .idle .none s

/-- R197: every register takes its reset value (spec/10_state.md R34). -/
def resetRegisters (s : State) : State :=
  { s with
    encState := EncState.idle.code
    dbHist := dbGuard s.params
    lastEncEvent := EncEvent.none.code
    lastBtnEvent := false }

/-! ## The passing of an edge -/

/-- The state once the edge at the head of `inputs` is over. -/
def State.passEdge (s : State) : State :=
  { s with inputs := s.inputs.tail }

/-- The outcome of an edge, given the outcome of the operation it selected. -/
def finishEdge (o : Host.Outcome State Fault Refusal) : Host.Outcome State Fault Refusal :=
  match o with
  | .next s => .next s.passEdge
  | .fault r => .fault r
  | .refused r => .refused r

end Sys2Proof.Machine
end

