-- ==== Sys2Proof/Machine/Control.lean ====
section
/-! DEFINITION. The meanings of format CTL (spec/42_tick_dispatch.md R191, R197, R198). -/

namespace Sys2Proof.Machine

/-- R197, `CTL.RESET`: every register takes its reset value; `tick` and `raw` are ignored. -/
def execCtlReset (_tick : BitVec 1) (s : State) : Host.Outcome State Fault Refusal :=
  .next (resetRegisters s)

/-- R191, `CTL.TICK`: the decode step and the sample step on the one raw word of this edge, their
results published with them (R192). Neither step reads what the other writes (R193). -/
def execCtlTick (s : State) : Host.Outcome State Fault Refusal :=
  let entry := decodeStep s.encState (encInput s.params s.port.raw)
  let hist := sampleStep s.params s.dbHist (btnInput s.params s.port.raw)
  .next { s with
    encState := entry.1.code
    dbHist := hist
    lastEncEvent := entry.2.code
    lastBtnEvent := pressEdge s.params s.dbHist hist }

/-- R198, `CTL.HOLD`: nothing is written. -/
def execCtlHold (s : State) : Host.Outcome State Fault Refusal :=
  .next s

end Sys2Proof.Machine
end

