-- ==== Sys2Proof/Machine/Decoder.lean ====
section
/-! DEFINITION. The meanings of format QD, one per row (spec/40_quadrature_decoder.md R103 to R131).
Each row's next state and event are taken from the row's own rule, not from `TT` and `EV`. No row
writes a flag or raises an exception. -/

namespace Sys2Proof.Machine

/-- R103, `QD.IDLE.0`: `Idle` on input 0 to `Idle`; no event. -/
def execQdIdle0 (s : State) : Host.Outcome State Fault Refusal :=
  .next (applyEntry .idle .none s)

/-- R104, `QD.IDLE.1`: `Idle` on input 1 to `CW_A`; no event. -/
def execQdIdle1 (s : State) : Host.Outcome State Fault Refusal :=
  .next (applyEntry .cwA .none s)

/-- R105, `QD.IDLE.2`: `Idle` on input 2 to `CCW_A`; no event. -/
def execQdIdle2 (s : State) : Host.Outcome State Fault Refusal :=
  .next (applyEntry .ccwA .none s)

/-- R106, `QD.IDLE.3`: the desynchronized input in `Idle`; no event. -/
def execQdIdle3 (s : State) : Host.Outcome State Fault Refusal :=
  .next (takeDesync s)

/-- R107, `QD.CW_A.0`: `CW_A` on input 0 to `CW_B`; no event. -/
def execQdCwA0 (s : State) : Host.Outcome State Fault Refusal :=
  .next (applyEntry .cwB .none s)

/-- R108, `QD.CW_A.1`: `CW_A` on input 1 to `CW_A`; no event. -/
def execQdCwA1 (s : State) : Host.Outcome State Fault Refusal :=
  .next (applyEntry .cwA .none s)

/-- R109, `QD.CW_A.2`: `CW_A` on input 2 to `Idle`; no event. -/
def execQdCwA2 (s : State) : Host.Outcome State Fault Refusal :=
  .next (applyEntry .idle .none s)

/-- R110, `QD.CW_A.3`: the desynchronized input in `CW_A`; no event. -/
def execQdCwA3 (s : State) : Host.Outcome State Fault Refusal :=
  .next (takeDesync s)

/-- R111, `QD.CW_B.0`: `CW_B` on input 0 to `CW_B`; no event. -/
def execQdCwB0 (s : State) : Host.Outcome State Fault Refusal :=
  .next (applyEntry .cwB .none s)

/-- R112, `QD.CW_B.1`: `CW_B` on input 1 to `CW_A`; no event. -/
def execQdCwB1 (s : State) : Host.Outcome State Fault Refusal :=
  .next (applyEntry .cwA .none s)

/-- R113, `QD.CW_B.2`: `CW_B` on input 2 to `CW_C`; no event. -/
def execQdCwB2 (s : State) : Host.Outcome State Fault Refusal :=
  .next (applyEntry .cwC .none s)

/-- R114, `QD.CW_B.3`: the desynchronized input in `CW_B`; no event. -/
def execQdCwB3 (s : State) : Host.Outcome State Fault Refusal :=
  .next (takeDesync s)

/-- R115, `QD.CW_C.0`: `CW_C` on input 0 to `Idle`; `ClockwiseClick`. -/
def execQdCwC0 (s : State) : Host.Outcome State Fault Refusal :=
  .next (applyEntry .idle .clockwiseClick s)

/-- R116, `QD.CW_C.1`: `CW_C` on input 1 to `Idle`; no event. -/
def execQdCwC1 (s : State) : Host.Outcome State Fault Refusal :=
  .next (applyEntry .idle .none s)

/-- R117, `QD.CW_C.2`: `CW_C` on input 2 to `CW_C`; no event. -/
def execQdCwC2 (s : State) : Host.Outcome State Fault Refusal :=
  .next (applyEntry .cwC .none s)

/-- R118, `QD.CW_C.3`: the desynchronized input in `CW_C`; no event. -/
def execQdCwC3 (s : State) : Host.Outcome State Fault Refusal :=
  .next (takeDesync s)

/-- R119, `QD.CCW_A.0`: `CCW_A` on input 0 to `CCW_B`; no event. -/
def execQdCcwA0 (s : State) : Host.Outcome State Fault Refusal :=
  .next (applyEntry .ccwB .none s)

/-- R120, `QD.CCW_A.1`: `CCW_A` on input 1 to `Idle`; no event. -/
def execQdCcwA1 (s : State) : Host.Outcome State Fault Refusal :=
  .next (applyEntry .idle .none s)

/-- R121, `QD.CCW_A.2`: `CCW_A` on input 2 to `CCW_A`; no event. -/
def execQdCcwA2 (s : State) : Host.Outcome State Fault Refusal :=
  .next (applyEntry .ccwA .none s)

/-- R122, `QD.CCW_A.3`: the desynchronized input in `CCW_A`; no event. -/
def execQdCcwA3 (s : State) : Host.Outcome State Fault Refusal :=
  .next (takeDesync s)

/-- R123, `QD.CCW_B.0`: `CCW_B` on input 0 to `CCW_B`; no event. -/
def execQdCcwB0 (s : State) : Host.Outcome State Fault Refusal :=
  .next (applyEntry .ccwB .none s)

/-- R124, `QD.CCW_B.1`: `CCW_B` on input 1 to `CCW_C`; no event. -/
def execQdCcwB1 (s : State) : Host.Outcome State Fault Refusal :=
  .next (applyEntry .ccwC .none s)

/-- R125, `QD.CCW_B.2`: `CCW_B` on input 2 to `CCW_A`; no event. -/
def execQdCcwB2 (s : State) : Host.Outcome State Fault Refusal :=
  .next (applyEntry .ccwA .none s)

/-- R126, `QD.CCW_B.3`: the desynchronized input in `CCW_B`; no event. -/
def execQdCcwB3 (s : State) : Host.Outcome State Fault Refusal :=
  .next (takeDesync s)

/-- R127, `QD.CCW_C.0`: `CCW_C` on input 0 to `Idle`; `CounterClockwiseClick`. -/
def execQdCcwC0 (s : State) : Host.Outcome State Fault Refusal :=
  .next (applyEntry .idle .counterClockwiseClick s)

/-- R128, `QD.CCW_C.1`: `CCW_C` on input 1 to `CCW_C`; no event. -/
def execQdCcwC1 (s : State) : Host.Outcome State Fault Refusal :=
  .next (applyEntry .ccwC .none s)

/-- R129, `QD.CCW_C.2`: `CCW_C` on input 2 to `Idle`; no event. -/
def execQdCcwC2 (s : State) : Host.Outcome State Fault Refusal :=
  .next (applyEntry .idle .none s)

/-- R130, `QD.CCW_C.3`: the desynchronized input in `CCW_C`; no event. -/
def execQdCcwC3 (s : State) : Host.Outcome State Fault Refusal :=
  .next (takeDesync s)

/-- R131, `QD.RSVD`: the reserved state code on any input to `Idle`; no event. -/
def execQdRsvd (_input : EncInput) (s : State) : Host.Outcome State Fault Refusal :=
  .next (applyEntry .idle .none s)

end Sys2Proof.Machine
end

