-- ==== Sys2Proof/Machine/Filter.lean ====
section
/-! DEFINITION. The meanings of format DB (spec/41_debounce_filter.md R161, R162). -/

namespace Sys2Proof.Machine

/-- R161, `DB.SAMPLE0`: the sample step with an open contact. -/
def execDbSample0 (s : State) : Host.Outcome State Fault Refusal :=
  .next (applySample false s)

/-- R162, `DB.SAMPLE1`: the sample step with a closed contact. -/
def execDbSample1 (s : State) : Host.Outcome State Fault Refusal :=
  .next (applySample true s)

end Sys2Proof.Machine
end

