-- ==== Sys2Proof/Machine/Dispatch.lean ====
section
/-! DEFINITION. The dispatch: one arm per operation, each one call of that operation's meaning. -/

namespace Sys2Proof.Machine

/-- The effect of one operation on the block. -/
def exec (i : Instr) (s : State) : Host.Outcome State Fault Refusal :=
  match i with
  | .qdIdle0 => Sys2Proof.Machine.execQdIdle0 s
  | .qdIdle1 => Sys2Proof.Machine.execQdIdle1 s
  | .qdIdle2 => Sys2Proof.Machine.execQdIdle2 s
  | .qdIdle3 => Sys2Proof.Machine.execQdIdle3 s
  | .qdCwA0 => Sys2Proof.Machine.execQdCwA0 s
  | .qdCwA1 => Sys2Proof.Machine.execQdCwA1 s
  | .qdCwA2 => Sys2Proof.Machine.execQdCwA2 s
  | .qdCwA3 => Sys2Proof.Machine.execQdCwA3 s
  | .qdCwB0 => Sys2Proof.Machine.execQdCwB0 s
  | .qdCwB1 => Sys2Proof.Machine.execQdCwB1 s
  | .qdCwB2 => Sys2Proof.Machine.execQdCwB2 s
  | .qdCwB3 => Sys2Proof.Machine.execQdCwB3 s
  | .qdCwC0 => Sys2Proof.Machine.execQdCwC0 s
  | .qdCwC1 => Sys2Proof.Machine.execQdCwC1 s
  | .qdCwC2 => Sys2Proof.Machine.execQdCwC2 s
  | .qdCwC3 => Sys2Proof.Machine.execQdCwC3 s
  | .qdCcwA0 => Sys2Proof.Machine.execQdCcwA0 s
  | .qdCcwA1 => Sys2Proof.Machine.execQdCcwA1 s
  | .qdCcwA2 => Sys2Proof.Machine.execQdCcwA2 s
  | .qdCcwA3 => Sys2Proof.Machine.execQdCcwA3 s
  | .qdCcwB0 => Sys2Proof.Machine.execQdCcwB0 s
  | .qdCcwB1 => Sys2Proof.Machine.execQdCcwB1 s
  | .qdCcwB2 => Sys2Proof.Machine.execQdCcwB2 s
  | .qdCcwB3 => Sys2Proof.Machine.execQdCcwB3 s
  | .qdCcwC0 => Sys2Proof.Machine.execQdCcwC0 s
  | .qdCcwC1 => Sys2Proof.Machine.execQdCcwC1 s
  | .qdCcwC2 => Sys2Proof.Machine.execQdCcwC2 s
  | .qdCcwC3 => Sys2Proof.Machine.execQdCcwC3 s
  | .qdRsvd input => Sys2Proof.Machine.execQdRsvd input s
  | .dbSample0 => Sys2Proof.Machine.execDbSample0 s
  | .dbSample1 => Sys2Proof.Machine.execDbSample1 s
  | .ctlReset tick => Sys2Proof.Machine.execCtlReset tick s
  | .ctlTick => Sys2Proof.Machine.execCtlTick s
  | .ctlHold => Sys2Proof.Machine.execCtlHold s

end Sys2Proof.Machine
end

