-- ==== Sys2Proof/Machine/Stimulus.lean ====
section
/-! DEFINITION. Stimuli: the named sequences (spec/30_encoding.md R72), and the preparation of a state
whose next edge runs a chosen operation. -/

namespace Sys2Proof.Machine

/-- R72: `CW_DETENT`, encoder inputs, oldest first. -/
def cwDetent : List EncInput := [1, 0, 2, 0]

/-- R72: `CCW_DETENT`. -/
def ccwDetent : List EncInput := [2, 0, 1, 0]

/-- R72: `DESYNC`. -/
def desync : List EncInput := [3]

/-- R72: `CANCEL_CW`. -/
def cancelCw : List EncInput := [1, 2]

/-- R72: `CANCEL_CCW`. -/
def cancelCcw : List EncInput := [2, 1]

/-- The ticks of an encoder sequence with the button open (R71: `e` alone means `btn` is 0). -/
def encoderTicks (p : Params) (ins : List EncInput) : List (PortSample p.rawW) :=
  ins.map (fun i => tickSample p i false)

/-- R72: `PRESS(k)`. -/
def press (p : Params) (k : Nat) : List (PortSample p.rawW) :=
  List.replicate k (tickSample p 0 true)

/-- R72: `RELEASE(k)`. -/
def release (p : Params) (k : Nat) : List (PortSample p.rawW) :=
  List.replicate k (tickSample p 0 false)

/-- The state whose next edge runs the operation of this format and key byte (log 5). A clock-level
key becomes the levels of `rst` and `tick`. A decode or sample key becomes a tick that performs that
operation: the key's state code is put in `ENC_STATE` and its input on the lines, or its level on the
button line. -/
def State.withKey (s : State) (f : Format) (b : Byte) : State :=
  match f with
  | .qd =>
    { s with
      encState := b.extractLsb' 2 3
      inputs := tickSample s.params (b.extractLsb' 0 2) false :: s.inputs }
  | .db => { s with inputs := tickSample s.params 0 (b.getLsbD 0) :: s.inputs }
  | .ctl =>
    { s with inputs := { rst := b.getLsbD 1, tick := b.getLsbD 0, raw := 0 } :: s.inputs }

/-- The state whose next edge runs this operation. -/
def State.withOperation (s : State) (i : Instr) : State :=
  match encode i with
  | (f, b :: _) => s.withKey f b
  | (_, []) => s

end Sys2Proof.Machine
end

