-- ==== Sys2Proof/Machine/Step.lean ====
section
/-! DEFINITION. The step of the machine: one rising edge of `clk` (spec/42_tick_dispatch.md R196). -/

namespace Sys2Proof.Machine

/-- One rising edge: the port levels select the clock-level operation, it acts, and the edge is over.
With `rst` low and `tick` high this is the tick of the architectural model (spec/00_scope.md R16). -/
def step (s : State) : Host.Outcome State Fault Refusal :=
  finishEdge (exec (decodeCtl (ctlKey s.port)) s)

/-- `s` with the operation of a table word where the next step finds it: the next edge is put before
the edges to come (log 5). A word that is no operation changes nothing. -/
def State.withFetchWord (s : State) (nbits w : Nat) : State :=
  match decodeTableWord nbits w with
  | some i => s.withOperation i
  | none => s

end Sys2Proof.Machine
end

