-- ==== Sys2Proof/Safety.lean ====
section
/-! DEFINITION. The terms in which claims about the block are made: legal registers
(spec/10_state.md R35 to R37), runs, what the environment feeds, and the mirror of
spec/40_quadrature_decoder.md R101. -/

namespace Sys2Proof.Machine

/-! ## Legal registers -/

/-- R35: every guard bit of the history is 1. -/
abbrev State.GuardSet (s : State) : Prop :=
  ∀ k < s.params.dbW, s.params.dbN ≤ k → s.dbHist.getLsbD k = true

/-- R35, R36, R37: the guard bits are set, the state code is not the reserved one, the event code is
one of the three. -/
abbrev State.Legal (s : State) : Prop :=
  s.GuardSet ∧ s.encState.toNat ≤ 6 ∧ s.lastEncEvent.toNat ≤ 2

/-! ## Runs -/

/-- `n` rising edges. -/
abbrev run (n : Nat) (s : State) : Host.Outcome State Fault Refusal :=
  Host.Core.run Sys2Proof.core n s

/-- The states after each of `n` rising edges, in order; shorter if the machine stops. -/
def statesAfter : Nat → State → List State
  | 0, _ => []
  | n + 1, s =>
    match step s with
    | .next t => t :: statesAfter n t
    | .fault _ => []
    | .refused _ => []

/-! ## What the environment feeds -/

/-- The edge is a tick: `rst` low, `tick` high (R196). -/
abbrev PortSample.IsTick {w : Nat} (e : PortSample w) : Prop :=
  e.rst = false ∧ e.tick = true

/-- The next edges are ticks whose encoder inputs are `ins`, one each, whatever the button and the
unowned bits. -/
abbrev State.FeedsEncoder (s : State) (ins : List EncInput) : Prop :=
  (∀ e ∈ s.inputs.take ins.length, e.IsTick) ∧
    (s.inputs.take ins.length).map (fun e => encInput s.params e.raw) = ins

/-- The next edges are ticks whose button levels are `bs`, one each, whatever the encoder and the
unowned bits. -/
abbrev State.FeedsButton (s : State) (bs : List Bool) : Prop :=
  (∀ e ∈ s.inputs.take bs.length, e.IsTick) ∧
    (s.inputs.take bs.length).map (fun e => btnInput s.params e.raw) = bs

/-- The next `n` edges have `rst` and `tick` low. -/
abbrev State.FeedsHolds (s : State) (n : Nat) : Prop :=
  ∀ e ∈ s.inputs.take n, e.rst = false ∧ e.tick = false

/-- From every state in `Idle` that feeds `ins`, the state codes and the published events after each
tick are these. -/
def IdleRunGives (ins : List EncInput) (codes : List StateCode) (events : List EventCode) : Prop :=
  ∀ s : State, s.encState = 0#3 → s.FeedsEncoder ins →
    (statesAfter ins.length s).map (fun t => t.encState) = codes ∧
    (statesAfter ins.length s).map (fun t => t.lastEncEvent) = events

/-- What an entry rule of spec/40_quadrature_decoder.md section 2 says: its key selects the operation;
the operation writes the next state and the event and nothing else; and the rule's example sequence,
fed from `Idle`, ends in that state, with that event on its last tick and no event before. -/
def EntryHolds (i : Instr) (key : Nat) (next : StateCode) (event : EventCode)
    (sequence : List EncInput) : Prop :=
  decode .qd [BitVec.ofNat 8 key] = .ok i ∧
  (∀ s : State, exec i s = .next { s with encState := next, lastEncEvent := event }) ∧
  (∀ s : State, s.encState = 0#3 → s.FeedsEncoder sequence →
    (∃ t, run sequence.length s = .next t ∧ t.encState = next) ∧
    (statesAfter sequence.length s).map (fun t => t.lastEncEvent) =
      List.replicate (sequence.length - 1) 0#2 ++ [event])

/-! ## The mirror -/

/-- The instance with the positions of the encoder lines exchanged (spec/30_encoding.md R61). -/
def mirrorParams (p : Params) : Params :=
  { p with posA := p.posB, posB := p.posA }

/-- The state code with `CW_x` and `CCW_x` exchanged (R101). -/
def mirrorCode (c : StateCode) : StateCode :=
  match c.toNat with
  | 1 => 4#3
  | 2 => 5#3
  | 3 => 6#3
  | 4 => 1#3
  | 5 => 2#3
  | 6 => 3#3
  | _ => c

/-- The event code with the two clicks exchanged. -/
def mirrorEvent (c : EventCode) : EventCode :=
  match c.toNat with
  | 1 => 2#2
  | 2 => 1#2
  | _ => c

/-- The mirrored state: lines, state code and event exchanged, everything else the same. -/
def State.mirror (s : State) : State :=
  { params := mirrorParams s.params
    encState := mirrorCode s.encState
    dbHist := s.dbHist
    lastEncEvent := mirrorEvent s.lastEncEvent
    lastBtnEvent := s.lastBtnEvent
    inputs := s.inputs }

/-- A next state mirrored; a stop stays what it is. -/
def mirrorOutcome (o : Host.Outcome State Fault Refusal) : Host.Outcome State Fault Refusal :=
  match o with
  | .next s => .next s.mirror
  | .fault r => .fault r
  | .refused r => .refused r

end Sys2Proof.Machine
end

