-- ==== Sys2Proof/Certificates/Slice0/Obligations.lean ====
section
/-! DEFINITION. What is claimed of the block. Each docstring names the rule of the spec it comes from,
and the spec's decision (spec/92_eei_decisions.md) it rests on where there is one. -/

open Sys2Proof Sys2Proof.Machine

/-! ## Encodings -/

/-- Decoding and encoding are inverse to each other (R65, R66, opcode_table.json; log 4, log 8). -/
def Obligations.DecodeAndEncodeAgree : Prop :=
  (∀ i : Instr, decode (encode i).1 (encode i).2 = .ok i) ∧
  (∀ (f : Format) (bytes : List Byte) (i : Instr),
    decode f bytes = .ok i → encode i = (f, bytes))

/-- Keys written out from the columns `encoding` of opcode_table.json. -/
def Obligations.WrittenKeysDecode : Prop :=
  decode .qd [0b00000#8] = .ok .qdIdle0 ∧
  decode .qd [0b01100#8] = .ok .qdCwC0 ∧
  decode .qd [0b10101#8] = .ok .qdCcwB1 ∧
  decode .qd [0b11101#8] = .ok (.qdRsvd 0b01#2) ∧
  decode .db [0b0#8] = .ok .dbSample0 ∧
  decode .db [0b1#8] = .ok .dbSample1 ∧
  decode .ctl [0b00#8] = .ok .ctlHold ∧
  decode .ctl [0b01#8] = .ok .ctlTick ∧
  decode .ctl [0b11#8] = .ok (.ctlReset 0b1#1)

/-- Every value of a key decodes, and nothing that is no key does, each rejection by its own name
(R65, R66, R69; the byte is the model's, log 4). -/
def Obligations.ExactlyTheKeysDecode : Prop :=
  ∀ f : Format,
    decode f [] = .error .noByte ∧
    (∀ b : Byte, b.toNat < (match f with | .qd => 32 | .db => 2 | .ctl => 4) →
      ∃ i, decode f [b] = .ok i) ∧
    (∀ b : Byte, (match f with | .qd => 32 | .db => 2 | .ctl => 4) ≤ b.toNat →
      decode f [b] = .error .bitsAboveKey) ∧
    (∀ (b c : Byte) (more : List Byte), decode f (b :: c :: more) = .error .extraBytes)

/-- A rising edge runs the operation that `rst` and `tick` of the next port sample select, then the
edge is over; with no sample to come the ports are at rest (R196, decisions D2, D3; log 3). -/
def Obligations.StepRunsTheSelectedOperation : Prop :=
  ∀ s : State,
    (∀ e rest, s.inputs = e :: rest → s.port = e) ∧
    (s.inputs = [] → s.port.rst = false ∧ s.port.tick = false) ∧
    ∀ i, decode .ctl [BitVec.ofNat 8 (2 * s.port.rst.toNat + s.port.tick.toNat)] = .ok i →
      (∀ t, exec i s = .next t → step s = .next { t with inputs := t.inputs.tail }) ∧
      (∀ r, exec i s = .fault r → step s = .fault r) ∧
      (∀ r, exec i s = .refused r → step s = .refused r)

/-- A tick is the decode operation of the key `ENC_STATE, in` and the sample operation of the key
`btn`, in either order (R66, R193, decision D24). That these two operations themselves publish the
event and the edge, where R100 and R160 leave that to the dispatch, is log 6; the reserved state code 7 is R131, decision
D7 (log 12). -/
def Obligations.TickIsOneDecodeAndOneSample : Prop :=
  ∀ (s : State) (qd db : Instr),
    decode .qd [BitVec.ofNat 8
      (4 * s.encState.toNat + (encInput s.params s.port.raw).toNat)] = .ok qd →
    decode .db [BitVec.ofNat 8 (btnInput s.params s.port.raw).toNat] = .ok db →
    ∃ u, exec .ctlTick s = .next u ∧
      (∃ t, exec qd s = .next t ∧ exec db t = .next u) ∧
      (∃ t, exec db s = .next t ∧ exec qd t = .next u)

/-- A table word of format QD, put where the next step finds it, has the row's effect on the encoder
registers (the model's loading convention, log 4, log 5); the row's own effect in any state is log 6 and
log 7, and the four reserved keys are R131, decision D7 (log 12). -/
def Obligations.LoadedKeyRuns : Prop :=
  ∀ (s : State) (key : BitVec 5), s.params.Wf →
    ∃ i t u, decodeTableWord 8 key.toNat = some i ∧
      exec i s = .next t ∧
      step (s.withFetchWord 8 key.toNat) = .next u ∧
      u.encState = t.encState ∧ u.lastEncEvent = t.lastEncEvent

/-! ## The entries of the table

The key, the next state and the event are the rule's. That the operation itself writes
`LAST_ENC_EVENT` is log 6 (R100 has the event handed to the dispatch), and that it has its effect in
every state, also one that disagrees with its key, is log 7. -/

/-- The input 3 column: R106, R110, R114, R118, R122, R126, R130; codes of the states by decisions D6
and D9. The published event and the effect in every state are log 6 and log 7. -/
def Obligations.InputThreeEntries : Prop :=
  EntryHolds .qdIdle3 3 0#3 0#2 [3] ∧
  EntryHolds .qdCwA3 7 0#3 0#2 [1, 3] ∧
  EntryHolds .qdCwB3 11 0#3 0#2 [1, 0, 3] ∧
  EntryHolds .qdCwC3 15 0#3 0#2 [1, 0, 2, 3] ∧
  EntryHolds .qdCcwA3 19 0#3 0#2 [2, 3] ∧
  EntryHolds .qdCcwB3 23 0#3 0#2 [2, 0, 3] ∧
  EntryHolds .qdCcwC3 27 0#3 0#2 [2, 0, 1, 3]

/-- The steps of the two detents after the first: R107, R113, R115, R119, R124, R127; each click comes
from one decode operation only. Which named state is which step is decision D9; the published event,
in the last clause too, and the effect in every state are log 6 and log 7. -/
def Obligations.DetentPathEntries : Prop :=
  EntryHolds .qdCwA0 4 2#3 0#2 [1, 0] ∧
  EntryHolds .qdCwB2 10 3#3 0#2 [1, 0, 2] ∧
  EntryHolds .qdCwC0 12 0#3 1#2 [1, 0, 2, 0] ∧
  EntryHolds .qdCcwA0 16 5#3 0#2 [2, 0] ∧
  EntryHolds .qdCcwB1 21 6#3 0#2 [2, 0, 1] ∧
  EntryHolds .qdCcwC0 24 0#3 2#2 [2, 0, 1, 0] ∧
  ∀ i : Instr, (encode i).1 = .qd → ∀ s t, exec i s = .next t →
    (t.lastEncEvent = 1#2 ↔ i = .qdCwC0) ∧ (t.lastEncEvent = 2#2 ↔ i = .qdCcwC0)

/-- The first step of each detent, R104 and R105: which named state it enters is decision D9.
The published event and the effect in every state are log 6 and log 7. -/
def Obligations.FirstStepEntries : Prop :=
  EntryHolds .qdIdle1 1 1#3 0#2 [1] ∧
  EntryHolds .qdIdle2 2 4#3 0#2 [2]

/-- The hold entries, R103, R108, R111, R117, R121, R123, R128: decision D10. The published
event and the effect in every state are log 6 and log 7. -/
def Obligations.HoldEntries : Prop :=
  EntryHolds .qdIdle0 0 0#3 0#2 [0, 0, 0] ∧
  EntryHolds .qdCwA1 5 1#3 0#2 [1, 1, 1] ∧
  EntryHolds .qdCwB0 8 2#3 0#2 [1, 0, 0, 0] ∧
  EntryHolds .qdCwC2 14 3#3 0#2 [1, 0, 2, 2] ∧
  EntryHolds .qdCcwA2 18 4#3 0#2 [2, 2] ∧
  EntryHolds .qdCcwB0 20 5#3 0#2 [2, 0, 0] ∧
  EntryHolds .qdCcwC1 25 6#3 0#2 [2, 0, 1, 1]

/-- Walk-back (R112, R125, decision D11), cancellation (R109, R120, decision D12) and skipped
transitions (R116, R129, decision D13). The published event and the effect in every state are log 6
and log 7. -/
def Obligations.BackwardAndSkipEntries : Prop :=
  EntryHolds .qdCwB1 9 1#3 0#2 [1, 0, 1] ∧
  EntryHolds .qdCcwB2 22 4#3 0#2 [2, 0, 2] ∧
  EntryHolds .qdCwA2 6 0#3 0#2 [1, 2] ∧
  EntryHolds .qdCcwA1 17 0#3 0#2 [2, 1] ∧
  EntryHolds .qdCwC1 13 0#3 0#2 [1, 0, 2, 1] ∧
  EntryHolds .qdCcwC2 26 0#3 0#2 [2, 0, 1, 2]

/-- The reserved state code, R131 and R67: `Idle` and no event on every input (decision D7,
log 12). The published event is log 6, the effect in every state log 7, the operand that keeps the
input bits log 8. -/
def Obligations.ReservedCodeGoesToIdle : Prop :=
  (∀ input : EncInput,
    decode .qd [BitVec.ofNat 8 (28 + input.toNat)] = .ok (.qdRsvd input) ∧
    ∀ s : State, exec (.qdRsvd input) s =
      .next { s with encState := 0#3, lastEncEvent := 0#2 }) ∧
  (∀ s : State, s.encState = 7#3 → s.port.IsTick →
    ∃ t, step s = .next t ∧ t.encState = 0#3 ∧ t.lastEncEvent = 0#2)

/-! ## The table as a whole -/

/-- R42: every one of the 32 keys has an operation that completes in one of the seven states, from
every state; and the reserved state code cannot arise from reset. R42 speaks of the lookup; that an
operation has its effect in every state is log 7, and what the four reserved keys give is decision D7
(log 12). -/
def Obligations.TableIsTotal : Prop :=
  (∀ key : BitVec 5, ∃ i, decode .qd [BitVec.ofNat 8 key.toNat] = .ok i ∧
    ∀ s : State, ∃ t, exec i s = .next t ∧ t.encState.toNat ≤ 6) ∧
  (∀ (p : Params) (ins : List (PortSample p.rawW)) (n : Nat) (t : State),
    run n (State.initial p ins) = .next t → t.encState ≠ 7#3)

/-- R191 with the numbers of R101 and the one line of R102: what a tick writes, and that it writes the
four registers and nothing else (decisions D9 to D16, D18, D20; log 9 to log 11). The defaults of the
list give the reserved state code 7 the next state `Idle`: R131, decision D7 (log 12). -/
def Obligations.TickFollowsTheNumericTable : Prop :=
  ∀ s : State, ∃ (code : StateCode) (hist : BitVec s.params.dbW) (ev : EventCode) (press : Bool),
    exec .ctlTick s = .next { s with
      encState := code, dbHist := hist, lastEncEvent := ev, lastBtnEvent := press } ∧
    code.toNat =
      (([[0, 1, 4, 0], [2, 1, 0, 0], [2, 1, 3, 0], [0, 0, 3, 0],
         [5, 0, 4, 0], [5, 6, 4, 0], [0, 6, 0, 0]] : List (List Nat)).getD
        s.encState.toNat []).getD (encInput s.params s.port.raw).toNat 0 ∧
    ev.toNat =
      (if s.encState.toNat = 3 ∧ (encInput s.params s.port.raw).toNat = 0 then 1
       else if s.encState.toNat = 6 ∧ (encInput s.params s.port.raw).toNat = 0 then 2 else 0) ∧
    (∀ k < s.params.dbW, hist.getLsbD k =
      (decide (s.params.dbN ≤ k) ||
        if k = 0 then btnInput s.params s.port.raw else s.dbHist.getLsbD (k - 1))) ∧
    (press = true ↔
      (∀ k < s.params.dbW, hist.getLsbD k = true) ∧
      ¬ ∀ k < s.params.dbW, s.dbHist.getLsbD k = true)

/-- R68: input 3 is a legal key of every state, `Idle` and `None`, at the row and at the tick. For the
reserved state code that is decision D7 (log 12); that the row publishes the event is log 6, and that
it does so in every state is log 7. -/
def Obligations.ReservedInputIsLegal : Prop :=
  (∀ code : StateCode, ∃ i, decode .qd [BitVec.ofNat 8 (4 * code.toNat + 3)] = .ok i ∧
    ∀ s : State, exec i s = .next { s with encState := 0#3, lastEncEvent := 0#2 }) ∧
  (∀ s : State, s.port.IsTick → encInput s.params s.port.raw = 3#2 →
    ∃ t, step s = .next t ∧ t.encState = 0#3 ∧ t.lastEncEvent = 0#2)

/-- R150: no error is raised on any key, and a click is emitted by exactly two of the 32 keys, those
of R115 and R127. That the operation publishes its event is log 6, from every state is log 7, and the
four reserved keys give no click by decision D7 (log 12). -/
def Obligations.ClickComesFromTwoKeys : Prop :=
  ∀ key : BitVec 5, ∃ i, decode .qd [BitVec.ofNat 8 key.toNat] = .ok i ∧
    ∀ s : State, ∃ t, exec i s = .next t ∧
      (t.lastEncEvent ≠ 0#2 ↔ key = 12#5 ∨ key = 24#5)

/-- R147: each intermediate state is entered only from its predecessor, or by walk-back, or held
(decisions D9 to D13, log 9). That none is entered from the reserved state code 7 is R131, decision D7
(log 12). -/
def Obligations.IntermediatesHaveTheirOnlyWaysIn : Prop :=
  ∀ s : State, s.port.IsTick → ∃ t, step s = .next t ∧
    (t.encState = 1#3 → encInput s.params s.port.raw = 1#2 ∧
      (s.encState = 0#3 ∨ s.encState = 2#3 ∨ s.encState = 1#3)) ∧
    (t.encState = 2#3 → encInput s.params s.port.raw = 0#2 ∧
      (s.encState = 1#3 ∨ s.encState = 2#3)) ∧
    (t.encState = 3#3 → encInput s.params s.port.raw = 2#2 ∧
      (s.encState = 2#3 ∨ s.encState = 3#3)) ∧
    (t.encState = 4#3 → encInput s.params s.port.raw = 2#2 ∧
      (s.encState = 0#3 ∨ s.encState = 5#3 ∨ s.encState = 4#3)) ∧
    (t.encState = 5#3 → encInput s.params s.port.raw = 0#2 ∧
      (s.encState = 4#3 ∨ s.encState = 5#3)) ∧
    (t.encState = 6#3 → encInput s.params s.port.raw = 1#2 ∧
      (s.encState = 5#3 ∨ s.encState = 6#3))

/-- R147: a click on the last tick of a run from `Idle` means that, since the last tick before it at
which the block was in `Idle`, the inputs began with the first pattern of that direction, held the
other three in order, and held no desynchronized input (decisions D9 to D14). `u` is the block at that
last time in `Idle`, and the states after each of the ticks that follow, the click's own apart, are
not `Idle`. -/
def Obligations.ClickNeedsAWholeDetent : Prop :=
  ∀ (s : State) (ins : List EncInput) (t : State),
    s.encState = 0#3 → ins ≠ [] → s.FeedsEncoder ins → run ins.length s = .next t →
    (t.lastEncEvent = 1#2 → ∃ pre rest, ins = pre ++ 1#2 :: rest ∧
      (∃ u, run pre.length s = .next u ∧ u.encState = 0#3 ∧
        ∀ v ∈ statesAfter rest.length u, v.encState ≠ 0#3) ∧
      List.Sublist [0#2, 2#2, 0#2] rest ∧ 3#2 ∉ rest) ∧
    (t.lastEncEvent = 2#2 → ∃ pre rest, ins = pre ++ 2#2 :: rest ∧
      (∃ u, run pre.length s = .next u ∧ u.encState = 0#3 ∧
        ∀ v ∈ statesAfter rest.length u, v.encState ≠ 0#3) ∧
      List.Sublist [0#2, 1#2, 0#2] rest ∧ 3#2 ∉ rest)

/-- R101, R61: exchanging the two encoder lines exchanges the two directions, for every run and every
state (decisions D5, D9 to D13, log 9, log 18). The reserved state code 7 is its own mirror, as R131
treats all inputs alike (decision D7, log 12). -/
def Obligations.ExchangingLinesExchangesDirections : Prop :=
  ∀ (n : Nat) (s : State), run n s.mirror = mirrorOutcome (run n s)

/-- R140, R141: a clean detent passes through its three intermediate states and gives one click, on
its last tick (the names of the states are decision D9). -/
def Obligations.CleanDetentGivesOneClick : Prop :=
  IdleRunGives [1, 0, 2, 0] [1, 2, 3, 0] [0, 0, 0, 1] ∧
  IdleRunGives [2, 0, 1, 0] [4, 5, 6, 0] [0, 0, 0, 2]

/-- R143: the first step of the other direction cancels (decision D12). -/
def Obligations.OppositeFirstStepCancels : Prop :=
  IdleRunGives [1, 2] [1, 0] [0, 0] ∧
  IdleRunGives [2, 1] [4, 0] [0, 0]

/-- R144: a detent with every sample repeated any number of times ends in `Idle` and gives one click,
at the first rest sample after the third pattern (decisions D9, D10). -/
def Obligations.SlowDetentGivesOneClick : Prop :=
  ∀ (s : State) (first third : EncInput) (click : EventCode) (a b c d e : Nat),
    (first, third, click) = (1#2, 2#2, 1#2) ∨ (first, third, click) = (2#2, 1#2, 2#2) →
    s.encState = 0#3 →
    s.FeedsEncoder (List.replicate a 0#2 ++ List.replicate (b + 1) first ++
      List.replicate (c + 1) 0#2 ++ List.replicate (d + 1) third ++
      List.replicate (e + 1) 0#2) →
    (∃ t, run (a + b + c + d + e + 4) s = .next t ∧ t.encState = 0#3) ∧
    (statesAfter (a + b + c + d + e + 4) s).map (fun t => t.lastEncEvent) =
      List.replicate (a + b + c + d + 3) 0#2 ++ click :: List.replicate e 0#2

/-- R148, the spec's reading of "idle-state convergence" (decision D27): input 3 reaches `Idle`, input
0 holds it, a click leaves the block in it, and it can be reached in three ticks without a click. The
ways home of the intermediate states are decided cells (D10 to D13, log 9). That the reserved state
code 7 goes to `Idle` with no event, on input 3 and on every other, is R131, decision D7 (log 12). -/
def Obligations.EveryStateConvergesToIdle : Prop :=
  (∀ s : State, s.port.IsTick → ∃ t, step s = .next t ∧
    (encInput s.params s.port.raw = 3#2 → t.encState = 0#3) ∧
    (s.encState = 0#3 → encInput s.params s.port.raw = 0#2 → t.encState = 0#3) ∧
    (t.lastEncEvent ≠ 0#2 → t.encState = 0#3)) ∧
  (∀ code : StateCode, ∃ ins : List EncInput, 1 ≤ ins.length ∧ ins.length ≤ 3 ∧ 3#2 ∉ ins ∧
    ∀ s : State, s.encState = code → s.FeedsEncoder ins →
      (∃ t, run ins.length s = .next t ∧ t.encState = 0#3) ∧
      ∀ t ∈ statesAfter ins.length s, t.lastEncEvent = 0#2)

/-- R149, what the table does not give: (a) steady rest keeps `CW_B` and `CCW_B`; (b) an abandoned
first step makes a counter-clockwise detent read as a clockwise click; (c) bounce of line B at its
rising edge clicks early (decisions D9 to D13). -/
def Obligations.RestDoesNotHomeTheSecondIntermediate : Prop :=
  (∀ (n : Nat) (s : State), s.encState = 2#3 ∨ s.encState = 5#3 →
    s.FeedsEncoder (List.replicate n 0#2) →
    ∃ t, run n s = .next t ∧ t.encState = s.encState ∧ ∀ u ∈ statesAfter n s, u.lastEncEvent = 0#2) ∧
  IdleRunGives [1, 0, 2, 0, 1, 0] [1, 2, 3, 0, 1, 2] [0, 0, 0, 1, 0, 0] ∧
  IdleRunGives [1, 0, 0, 2, 0, 2] [1, 2, 2, 3, 0, 4] [0, 0, 0, 0, 1, 0]

/-- R212, R213: from any state, any run of desynchronized samples keeps `Idle` with no event, and the
next clean detent counts (the names of the states are decision D9). A start in the reserved state code
7 rests on R131, decision D7 (log 12). -/
def Obligations.BadSamplesHealAtOnce : Prop :=
  ∀ (s : State) (n : Nat),
    s.FeedsEncoder (List.replicate (n + 1) 3#2 ++ [1, 0, 2, 0]) →
    (statesAfter (n + 5) s).map (fun t => t.encState) =
      List.replicate (n + 1) 0#3 ++ [1, 2, 3, 0] ∧
    (statesAfter (n + 5) s).map (fun t => t.lastEncEvent) =
      List.replicate (n + 1) 0#2 ++ [0, 0, 0, 1]

/-- R51, R193: within a tick the decoder's result does not depend on the button, the history or the
last edge, nor the filter's on the encoder lines, the state or the last event (decision D24). -/
def Obligations.DecoderAndFilterDoNotInteract : Prop :=
  ∀ (s : State) (e e' : PortSample s.params.rawW) (rest : List (PortSample s.params.rawW)),
    e.IsTick → e'.IsTick →
    (encInput s.params e.raw = encInput s.params e'.raw →
      ∀ (h : BitVec s.params.dbW) (pr : Bool), ∃ t u,
        step { s with inputs := e :: rest } = .next t ∧
        step { s with dbHist := h, lastBtnEvent := pr, inputs := e' :: rest } = .next u ∧
        t.encState = u.encState ∧ t.lastEncEvent = u.lastEncEvent) ∧
    (btnInput s.params e.raw = btnInput s.params e'.raw →
      ∀ (c : StateCode) (ev : EventCode), ∃ t u,
        step { s with inputs := e :: rest } = .next t ∧
        step { s with encState := c, lastEncEvent := ev, inputs := e' :: rest } = .next u ∧
        (∀ k, t.dbHist.getLsbD k = u.dbHist.getLsbD k) ∧ t.lastBtnEvent = u.lastBtnEvent)

/-! ## The filter -/

/-- R8, R165: the guard mask and the target by their numbers (decision D16). -/
def Obligations.GuardAndTargetValues : Prop :=
  (∀ p : Params, p.Wf →
    (dbGuard p).toNat = (2 ^ p.dbW - 1) - (2 ^ p.dbN - 1) ∧
    (dbTarget p).toNat = 2 ^ p.dbW - 1) ∧
  (dbGuard Params.standard).toNat = 0xFF00 ∧ (dbTarget Params.standard).toNat = 0xFFFF

/-- R161, R162, R166: what each sample operation writes, bit by bit, and that it writes nothing else;
the level looks at the low bits of the old history, the edge also asks that it was not the target
(decisions D16, D18; the edge published with it is log 6). -/
def Obligations.SampleOperationsShiftTheHistory : Prop :=
  ∀ (s : State) (b : Bool), s.params.Wf →
    ∃ (h : BitVec s.params.dbW) (press : Bool),
      exec (if b then .dbSample1 else .dbSample0) s =
        .next { s with dbHist := h, lastBtnEvent := press } ∧
      h.getLsbD 0 = b ∧
      (∀ k, k + 1 < s.params.dbN → h.getLsbD (k + 1) = s.dbHist.getLsbD k) ∧
      (∀ k, s.params.dbN ≤ k → k < s.params.dbW → h.getLsbD k = true) ∧
      (({ s with dbHist := h, lastBtnEvent := press } : State).outputs.btnStable = true ↔
        b = true ∧ ∀ k, k + 1 < s.params.dbN → s.dbHist.getLsbD k = true) ∧
      (press = true ↔
        (b = true ∧ ∀ k, k + 1 < s.params.dbN → s.dbHist.getLsbD k = true) ∧
        ∃ k < s.params.dbW, s.dbHist.getLsbD k = false)

/-- R167: under the guard invariant the edge asks that the level holds now and the oldest window
sample, which falls out, was 0 (decisions D16, D18). -/
def Obligations.EdgeLooksAtTheOldestSample : Prop :=
  ∀ s : State, s.params.Wf → s.GuardSet → s.port.IsTick →
    ∃ t, step s = .next t ∧
      (t.lastBtnEvent = true ↔
        t.outputs.btnStable = true ∧ s.dbHist.getLsbD (s.params.dbN - 1) = false)

/-- R163: the level is 1 exactly when the whole history is the target, which under the guard invariant
is when the window is all ones (decisions D16, D18). -/
def Obligations.LevelIsTheFullWindow : Prop :=
  ∀ s : State, s.params.Wf →
    (s.outputs.btnStable = true ↔ s.dbHist = dbTarget s.params) ∧
    (s.GuardSet →
      (s.outputs.btnStable = true ↔ ∀ k < s.params.dbN, s.dbHist.getLsbD k = true))

/-- R168: after any number of ticks from reset the window holds the last samples, the newest at bit 0,
with 0 for the time before reset; the level and the edge follow (the reset value is decision D17). -/
def Obligations.HistoryHoldsTheLastSamples : Prop :=
  ∀ (p : Params) (ins : List (PortSample p.rawW)) (bs : List Bool), p.Wf →
    (State.initial p ins).FeedsButton bs →
    ∃ t, run bs.length (State.initial p ins) = .next t ∧
      (∀ k < p.dbN, t.dbHist.getLsbD k = bs.reverse.getD k false) ∧
      (∀ k < p.dbW, p.dbN ≤ k → t.dbHist.getLsbD k = true) ∧
      (t.outputs.btnStable = true ↔ ∀ k < p.dbN, bs.reverse.getD k false = true) ∧
      (t.lastBtnEvent = true ↔
        (∀ k < p.dbN, bs.reverse.getD k false = true) ∧ bs.reverse.getD p.dbN false = false)

/-- R170, R172: a 0 among the last `DB_N` samples means neither level nor edge, from any state; and
fewer than `DB_N` ticks after reset report nothing (the reset value is decision D17). -/
def Obligations.ShortRunsNeverReport : Prop :=
  (∀ (s : State) (bs : List Bool), s.params.Wf → s.FeedsButton bs →
    false ∈ bs → bs.length ≤ s.params.dbN →
    ∃ t, run bs.length s = .next t ∧ t.outputs.btnStable = false ∧ t.lastBtnEvent = false) ∧
  (∀ (p : Params) (ins : List (PortSample p.rawW)) (bs : List Bool), p.Wf →
    (State.initial p ins).FeedsButton bs → bs.length < p.dbN →
    ∃ t, run bs.length (State.initial p ins) = .next t ∧
      t.outputs.btnStable = false ∧ t.lastBtnEvent = false)

/-- R171: a run of closed samples after an open one (or after reset, whose newest sample counts as
open) gives one edge, on its `DB_N`-th sample, and the level from that sample on (decision D17). -/
def Obligations.OneEdgePerPress : Prop :=
  ∀ (s : State) (m : Nat), s.params.Wf → s.dbHist.getLsbD 0 = false →
    s.FeedsButton (List.replicate m true) →
    (statesAfter m s).map (fun t => t.lastBtnEvent) =
      (List.range m).map (fun j => decide (j + 1 = s.params.dbN)) ∧
    (statesAfter m s).map (fun t => t.outputs.btnStable) =
      (List.range m).map (fun j => decide (s.params.dbN ≤ j + 1))

/-- R173, R174: a full history is kept by a closed sample, with level and no edge; an open sample drops
the level on the same tick, with no edge, from any history (decisions D16, D18). -/
def Obligations.HeldAndReleasedButton : Prop :=
  ∀ s : State, s.params.Wf → s.port.IsTick → ∃ t, step s = .next t ∧
    (btnInput s.params s.port.raw = true → s.outputs.btnStable = true →
      (∀ k, t.dbHist.getLsbD k = s.dbHist.getLsbD k) ∧
      t.outputs.btnStable = true ∧ t.lastBtnEvent = false) ∧
    (btnInput s.params s.port.raw = false →
      t.outputs.btnStable = false ∧ t.lastBtnEvent = false)

/-! ## The tick, reset and hold -/

/-- R45: two raw words that agree on the three owned bits give the same next state, outputs included. -/
def Obligations.UnownedBitsAreIgnored : Prop :=
  ∀ (s : State) (e e' : PortSample s.params.rawW) (rest : List (PortSample s.params.rawW)),
    e.rst = e'.rst → e.tick = e'.tick →
    e.raw.getLsbD s.params.posA = e'.raw.getLsbD s.params.posA →
    e.raw.getLsbD s.params.posB = e'.raw.getLsbD s.params.posB →
    e.raw.getLsbD s.params.posBtn = e'.raw.getLsbD s.params.posBtn →
    ∃ t, step { s with inputs := e :: rest } = .next t ∧
      step { s with inputs := e' :: rest } = .next t

/-- R197, R34, R216 (a): reset writes every register with its reset value, whatever `tick`, `raw` and
the registers are, and wins over a tick on the same edge (decisions D3, D17, D20). -/
def Obligations.ResetWritesEveryRegister : Prop :=
  (∀ (s : State) (tick : BitVec 1), exec (.ctlReset tick) s = .next { s with
    encState := 0#3, dbHist := dbGuard s.params, lastEncEvent := 0#2, lastBtnEvent := false }) ∧
  (∀ s : State, s.port.rst = true → step s = .next { s with
    encState := 0#3, dbHist := dbGuard s.params, lastEncEvent := 0#2, lastBtnEvent := false,
    inputs := s.inputs.tail })

/-- R34 with the defaults of R8 and R9: the state after reset, number by number (decisions D4, D6, D15
to D17, D20; nothing scheduled is log 3). -/
def Obligations.ResetValues : Prop :=
  State.reset =
    { params := { dbW := 16, dbN := 8, rawW := 3, posA := 0, posB := 1, posBtn := 2 }
      encState := 0#3, dbHist := 0xFF00#16, lastEncEvent := 0#2, lastBtnEvent := false
      inputs := [] } ∧
  State.reset.outputs = { encEvent := 0#2, btnPress := false, btnStable := false }

/-- R198, R199: an edge without `rst` and `tick` writes nothing, and any number of them leaves the
registers and the outputs as they were (decision D2). -/
def Obligations.HoldKeepsEverything : Prop :=
  (∀ s : State, exec .ctlHold s = .next s) ∧
  (∀ (n : Nat) (s : State), s.FeedsHolds n →
    run n s = .next { s with inputs := s.inputs.drop n })

/-- R201, R146: no run stops; the parameters stay what they were (log 1), and an edge uses up one port
sample (log 3). -/
def Obligations.EveryRunGoesOn : Prop :=
  ∀ (n : Nat) (s : State), ∃ t, run n s = .next t ∧ t.params = s.params ∧
    t.inputs.length = s.inputs.length - n

/-- R35, R36, R37: every edge keeps the registers legal. -/
def Obligations.StepKeepsRegistersLegal : Prop :=
  ∀ s t : State, s.Legal → step s = .next t → t.Legal

/-- R35, R36, R37: the registers are legal after reset, for every instance (decisions D6, D17, D20). -/
def Obligations.ResetRegistersAreLegal : Prop :=
  State.reset.Legal ∧ ∀ (p : Params) (ins : List (PortSample p.rawW)), (State.initial p ins).Legal

/-- R160, R67, R197: one tick or one reset makes the registers legal from any state at all, the
reserved code and missing guard bits included (decisions D7, D16). -/
def Obligations.OneEdgeMakesRegistersLegal : Prop :=
  ∀ s : State, s.port.rst = true ∨ s.port.tick = true → ∃ t, step s = .next t ∧ t.Legal

/-- R21: `ENC_STATE` starts in `Idle`, keeps to the seven codes, is neither read nor written by the
sample operations and a hold, and reaches no output. -/
def Obligations.EncoderStateHasOneOwner : Prop :=
  State.reset.encState = 0#3 ∧
  (∀ (p : Params) (ins : List (PortSample p.rawW)) (n : Nat) (t : State),
    run n (State.initial p ins) = .next t → t.encState.toNat ≤ 6) ∧
  (∀ i : Instr, i = .dbSample0 ∨ i = .dbSample1 ∨ i = .ctlHold → ∀ s : State, ∃ t,
    exec i s = .next t ∧ t.encState = s.encState ∧
    ∀ c, exec i { s with encState := c } = .next { t with encState := c }) ∧
  (∀ (s : State) (c : StateCode), ({ s with encState := c } : State).outputs = s.outputs)

/-- R22: a tick puts its sample at bit 0 of `DB_HIST` and moves the window up; the decode operations
and a hold neither read nor write it (that a decode operation writes its event is log 6, in every
state log 7). -/
def Obligations.HistoryHasOneOwner : Prop :=
  (∀ s : State, s.params.Wf → s.port.IsTick → ∃ t, step s = .next t ∧
    t.dbHist.getLsbD 0 = btnInput s.params s.port.raw ∧
    (∀ k, k + 1 < s.params.dbN → t.dbHist.getLsbD (k + 1) = s.dbHist.getLsbD k) ∧
    (∀ k, s.params.dbN ≤ k → k < s.params.dbW → t.dbHist.getLsbD k = true)) ∧
  (∀ i : Instr, (encode i).1 = .qd ∨ i = .ctlHold → ∀ s : State,
    ∃ c ev, ∀ h : BitVec s.params.dbW, exec i { s with dbHist := h } =
      .next { s with dbHist := h, encState := c, lastEncEvent := ev })

/-! ## The event of a tick -/

/-- R145: a tick returns exactly one of `None`, `ClockwiseClick`, `CounterClockwiseClick`, from every
state. -/
def Obligations.TickReturnsExactlyOneEvent : Prop :=
  ∀ s : State, ∃ t, exec .ctlTick s = .next t ∧ ∃! ev : EncEvent, t.outputs.encEvent = ev.code
end

