-- ==== Sys2Proof/Laws/Decode.lean ====
section
/-! SUPPORT. Codes, and what the decoder and the encoder do. -/

namespace Sys2Proof

@[simp] theorem EncState.ofCode_code (st : EncState) : EncState.ofCode st.code = some st := by
  cases st <;> rfl

theorem EncState.code_le_six (st : EncState) : st.code.toNat ≤ 6 := by
  cases st <;> decide

theorem EncEvent.code_le_two (ev : EncEvent) : ev.code.toNat ≤ 2 := by
  cases ev <;> decide

/-- No two events share a code. -/
theorem EncEvent.code_injective {a b : EncEvent} (h : a.code = b.code) : a = b := by
  revert h
  cases a <;> cases b <;> decide

/-- A code names a state, or it is the reserved one. -/
theorem EncState.ofCode_cases (c : StateCode) :
    (∃ st, EncState.ofCode c = some st ∧ c = st.code) ∨
      (EncState.ofCode c = none ∧ c = 7#3) := by
  revert c
  decide

@[simp] theorem byInput_zero {α : Type} (a b c d : α) : byInput a b c d 0#2 = a := rfl

@[simp] theorem byInput_one {α : Type} (a b c d : α) : byInput a b c d 1#2 = b := rfl

@[simp] theorem byInput_two {α : Type} (a b c d : α) : byInput a b c d 2#2 = c := rfl

@[simp] theorem byInput_three {α : Type} (a b c d : α) : byInput a b c d 3#2 = d := rfl

/-- The encoder input takes four values. -/
theorem encInput_cases (i : EncInput) : i = 0#2 ∨ i = 1#2 ∨ i = 2#2 ∨ i = 3#2 := by
  revert i
  decide

@[simp] theorem decode_singleton (f : Format) (b : Byte) :
    decode f [b] =
      if b.toNat < 2 ^ f.width then .ok (decodeKey f b) else .error .bitsAboveKey := rfl

/-- What decodes is one byte within the key's width. -/
theorem decode_eq_ok {f : Format} {bytes : List Byte} {i : Instr} (h : decode f bytes = .ok i) :
    ∃ b, bytes = [b] ∧ b.toNat < 2 ^ f.width ∧ decodeKey f b = i := by
  match bytes with
  | [] => simp [decode] at h
  | [b] =>
    by_cases hb : b.toNat < 2 ^ f.width
    · exact ⟨b, rfl, hb, by simpa [hb] using h⟩
    · simp [hb] at h
  | _ :: _ :: _ => simp [decode] at h

end Sys2Proof
end

