-- ==== Sys2Proof/Laws/State.lean ====
section
/-! SUPPORT. What each update of State does to each field. -/

namespace Sys2Proof.Machine

@[simp] theorem applyEntry_params (st : EncState) (ev : EncEvent) (s : State) :
    (applyEntry st ev s).params = s.params := rfl

@[simp] theorem applyEntry_encState (st : EncState) (ev : EncEvent) (s : State) :
    (applyEntry st ev s).encState = st.code := rfl

@[simp] theorem applyEntry_dbHist (st : EncState) (ev : EncEvent) (s : State) :
    (applyEntry st ev s).dbHist = s.dbHist := rfl

@[simp] theorem applyEntry_lastEncEvent (st : EncState) (ev : EncEvent) (s : State) :
    (applyEntry st ev s).lastEncEvent = ev.code := rfl

@[simp] theorem applyEntry_lastBtnEvent (st : EncState) (ev : EncEvent) (s : State) :
    (applyEntry st ev s).lastBtnEvent = s.lastBtnEvent := rfl

@[simp] theorem applyEntry_inputs (st : EncState) (ev : EncEvent) (s : State) :
    (applyEntry st ev s).inputs = s.inputs := rfl

@[simp] theorem applySample_params (btn : Bool) (s : State) :
    (applySample btn s).params = s.params := rfl

@[simp] theorem applySample_encState (btn : Bool) (s : State) :
    (applySample btn s).encState = s.encState := rfl

@[simp] theorem applySample_dbHist (btn : Bool) (s : State) :
    (applySample btn s).dbHist = sampleStep s.params s.dbHist btn := rfl

@[simp] theorem applySample_lastEncEvent (btn : Bool) (s : State) :
    (applySample btn s).lastEncEvent = s.lastEncEvent := rfl

@[simp] theorem applySample_lastBtnEvent (btn : Bool) (s : State) :
    (applySample btn s).lastBtnEvent = pressEdge s.params s.dbHist (sampleStep s.params s.dbHist btn) := rfl

@[simp] theorem applySample_inputs (btn : Bool) (s : State) :
    (applySample btn s).inputs = s.inputs := rfl

@[simp] theorem resetRegisters_params (s : State) :
    (resetRegisters s).params = s.params := rfl

@[simp] theorem resetRegisters_encState (s : State) :
    (resetRegisters s).encState = 0#3 := rfl

@[simp] theorem resetRegisters_dbHist (s : State) :
    (resetRegisters s).dbHist = dbGuard s.params := rfl

@[simp] theorem resetRegisters_lastEncEvent (s : State) :
    (resetRegisters s).lastEncEvent = 0#2 := rfl

@[simp] theorem resetRegisters_lastBtnEvent (s : State) :
    (resetRegisters s).lastBtnEvent = false := rfl

@[simp] theorem resetRegisters_inputs (s : State) :
    (resetRegisters s).inputs = s.inputs := rfl

@[simp] theorem State.passEdge_params (s : State) :
    (s.passEdge).params = s.params := rfl

@[simp] theorem State.passEdge_encState (s : State) :
    (s.passEdge).encState = s.encState := rfl

@[simp] theorem State.passEdge_dbHist (s : State) :
    (s.passEdge).dbHist = s.dbHist := rfl

@[simp] theorem State.passEdge_lastEncEvent (s : State) :
    (s.passEdge).lastEncEvent = s.lastEncEvent := rfl

@[simp] theorem State.passEdge_lastBtnEvent (s : State) :
    (s.passEdge).lastBtnEvent = s.lastBtnEvent := rfl

@[simp] theorem State.passEdge_inputs (s : State) :
    (s.passEdge).inputs = s.inputs.tail := rfl

@[simp] theorem State.initial_params (p : Params) (ins : List (PortSample p.rawW)) :
    (State.initial p ins).params = p := rfl

@[simp] theorem State.initial_encState (p : Params) (ins : List (PortSample p.rawW)) :
    (State.initial p ins).encState = 0#3 := rfl

@[simp] theorem State.initial_dbHist (p : Params) (ins : List (PortSample p.rawW)) :
    (State.initial p ins).dbHist = dbGuard p := rfl

@[simp] theorem State.initial_lastEncEvent (p : Params) (ins : List (PortSample p.rawW)) :
    (State.initial p ins).lastEncEvent = 0#2 := rfl

@[simp] theorem State.initial_lastBtnEvent (p : Params) (ins : List (PortSample p.rawW)) :
    (State.initial p ins).lastBtnEvent = false := rfl

@[simp] theorem State.initial_inputs (p : Params) (ins : List (PortSample p.rawW)) :
    (State.initial p ins).inputs = ins := rfl

end Sys2Proof.Machine
end

