-- ==== Sys2Proof/Laws/Ops.lean ====
section
/-! SUPPORT. One specification per shared operation: constants, operands, the two component steps and
the filter's outputs. -/

namespace Sys2Proof.Machine

/-! ## Constants -/

@[simp] theorem dbTarget_getLsbD (p : Params) (k : Nat) :
    (dbTarget p).getLsbD k = decide (k < p.dbW) := by
  simp [dbTarget]

@[simp] theorem dbGuard_getLsbD (p : Params) (k : Nat) :
    (dbGuard p).getLsbD k = (decide (k < p.dbW) && decide (p.dbN ≤ k)) := by
  simp only [dbGuard, BitVec.getLsbD_shiftLeft, BitVec.getLsbD_allOnes]
  by_cases h : k < p.dbW
  · by_cases h' : p.dbN ≤ k
    · have : k - p.dbN < p.dbW := by omega
      simp [h, h', this]
    · simp [h']
  · simp [h]

/-! ## Operands -/

theorem encInput_eq {p : Params} (raw : BitVec p.rawW) :
    encInput p raw = BitVec.ofBool (raw.getLsbD p.posB) ++ BitVec.ofBool (raw.getLsbD p.posA) :=
  rfl

/-- R45: the operands depend on the three owned bits alone. -/
theorem operands_congr {p : Params} {raw raw' : BitVec p.rawW}
    (hA : raw.getLsbD p.posA = raw'.getLsbD p.posA)
    (hB : raw.getLsbD p.posB = raw'.getLsbD p.posB)
    (hBtn : raw.getLsbD p.posBtn = raw'.getLsbD p.posBtn) :
    encInput p raw = encInput p raw' ∧ btnInput p raw = btnInput p raw' := by
  simp [encInput, btnInput, hA, hB, hBtn]

theorem lineAt_getLsbD (w pos : Nat) (level : Bool) (k : Nat) :
    (lineAt w pos level).getLsbD k = (decide (k < w) && decide (k = pos) && level) := by
  unfold lineAt
  simp only [BitVec.getLsbD_shiftLeft, BitVec.getLsbD_setWidth]
  by_cases h : k < w
  · by_cases h' : k = pos
    · subst h'
      have : 0 < w := by omega
      simp [h, this]
    · by_cases h'' : k < pos
      · simp [h', h'']
      · have : k - pos ≠ 0 := by omega
        simp [h', BitVec.getLsbD_ofBool, this]
  · simp [h]

/-- R60, R71: the raw word of a stimulus carries the input and the level it was built from. -/
theorem operands_rawOf {p : Params} (hp : p.Wf) (input : EncInput) (btn : Bool) :
    encInput p (rawOf p input btn) = input ∧ btnInput p (rawOf p input btn) = btn := by
  obtain ⟨-, -, -, -, ⟨hA, hB, hN⟩, hAB, hAN, hBN⟩ := hp
  constructor
  · simp only [encInput, rawOf, BitVec.getLsbD_or, lineAt_getLsbD]
    simp only [hA, hB, hAB, hAN, hBN, Ne.symm hAB, decide_true, decide_false, Bool.true_and,
      Bool.false_and, Bool.or_false, Bool.false_or]
    rcases encInput_cases input with rfl | rfl | rfl | rfl <;> rfl
  · simp only [btnInput, rawOf, BitVec.getLsbD_or, lineAt_getLsbD]
    simp [hN, Ne.symm hAN, Ne.symm hBN]

/-! ## The decode step -/

@[simp] theorem decodeStep_code (st : EncState) (input : EncInput) :
    decodeStep st.code input = (TT st input, EV st input) := by
  simp [decodeStep]

@[simp] theorem decodeStep_reserved (input : EncInput) :
    decodeStep 7#3 input = (.idle, .none) := rfl

/-- R101, R102, R131: the decode step by the numbers. -/
theorem decodeStep_cases (c : StateCode) (input : EncInput) :
    (∃ st, c = st.code ∧ decodeStep c input = (TT st input, EV st input)) ∨
      (c = 7#3 ∧ decodeStep c input = (.idle, .none)) := by
  rcases EncState.ofCode_cases c with ⟨st, -, rfl⟩ | ⟨-, rfl⟩
  · exact .inl ⟨st, rfl, decodeStep_code st input⟩
  · exact .inr ⟨rfl, rfl⟩

/-- R142: input 3 gives `Idle` and no event from every state code. -/
theorem decodeStep_three (c : StateCode) : decodeStep c 3#2 = (.idle, .none) := by
  revert c
  decide

/-- R102: a click comes from two (state, input) pairs only. -/
theorem decodeStep_event (c : StateCode) (input : EncInput) :
    (decodeStep c input).2 =
      if c = 3#3 ∧ input = 0#2 then .clockwiseClick
      else if c = 6#3 ∧ input = 0#2 then .counterClockwiseClick
      else .none := by
  revert c input
  decide

/-! ## The sample step -/

/-- R160, R166: bit 0 takes the sample, the guard bits are forced, the others move up. -/
theorem sampleStep_getLsbD (p : Params) (h : BitVec p.dbW) (b : Bool) (k : Nat) :
    (sampleStep p h b).getLsbD k =
      (decide (k < p.dbW) &&
        (decide (p.dbN ≤ k) || (if k = 0 then b else h.getLsbD (k - 1)))) := by
  unfold sampleStep
  simp only [BitVec.getLsbD_or, BitVec.getLsbD_shiftLeft, BitVec.getLsbD_setWidth,
    dbGuard_getLsbD]
  by_cases hk : k < p.dbW
  · by_cases h0 : k = 0
    · subst h0
      simp [hk, Bool.or_comm]
    · have h1 : ¬ k < 1 := by omega
      simp [hk, h0, BitVec.getLsbD_ofBool, Bool.or_comm]
  · simp [hk]

/-- R163: the level is 1 exactly when every bit of the history is 1. -/
theorem stableLevel_iff (p : Params) (h : BitVec p.dbW) :
    stableLevel p h = true ↔ ∀ k < p.dbW, h.getLsbD k = true := by
  unfold stableLevel
  rw [beq_iff_eq]
  constructor
  · rintro rfl k hk
    simp [hk]
  · intro hall
    apply BitVec.eq_of_getLsbD_eq
    intro k hk
    rw [hall k hk, dbTarget_getLsbD, decide_eq_true hk]

/-- R164: the edge is the level after without the level before. -/
theorem pressEdge_eq (p : Params) (h h' : BitVec p.dbW) :
    pressEdge p h h' = (stableLevel p h' && !stableLevel p h) := by
  simp [pressEdge, stableLevel, bne]

/-- R161, R162, R167: the level after the sample step looks at the window only. -/
theorem stableLevel_sampleStep {p : Params} (hp : p.Wf) (h : BitVec p.dbW) (b : Bool) :
    stableLevel p (sampleStep p h b) = true ↔
      b = true ∧ ∀ k, k + 1 < p.dbN → h.getLsbD k = true := by
  obtain ⟨hW, hN, hNW, -⟩ := hp
  rw [stableLevel_iff]
  simp only [sampleStep_getLsbD]
  constructor
  · intro hall
    refine ⟨?_, fun k hk => ?_⟩
    · have := hall 0 hW
      have hn : ¬ p.dbN ≤ 0 := by omega
      have hw : 0 < p.dbW := hW
      simpa [hw, hn] using this
    · have := hall (k + 1) (by omega)
      have hn : ¬ p.dbN ≤ k + 1 := by omega
      have hw : k + 1 < p.dbW := by omega
      simpa [hw, hn] using this
  · rintro ⟨rfl, hall⟩ k hk
    by_cases hn : p.dbN ≤ k
    · simp [hk, hn]
    · by_cases h0 : k = 0
      · subst h0
        simp [hk]
      · have := hall (k - 1) (by omega)
        simp [hk, h0, this]

end Sys2Proof.Machine
end

