-- ==== Sys2Proof/Laws/Step.lean ====
section
/-! SUPPORT. What one rising edge does, said once: the three cases of the step. -/

namespace Sys2Proof.Machine

/-- The state after the tick at the head of `inputs` (R191). -/
def State.afterTick (s : State) : State :=
  (applySample (btnInput s.params s.port.raw)
    (applyEntry (decodeStep s.encState (encInput s.params s.port.raw)).1
      (decodeStep s.encState (encInput s.params s.port.raw)).2 s)).passEdge

/-- R196: reset wins, then tick, else hold. -/
theorem step_cases (s : State) :
    (s.port.rst = true ∧ step s = .next (resetRegisters s).passEdge) ∨
      (s.port.IsTick ∧ step s = .next s.afterTick) ∨
      ((s.port.rst = false ∧ s.port.tick = false) ∧ step s = .next s.passEdge) := by
  unfold step PortSample.IsTick ctlKey
  rcases s.port.rst <;> rcases s.port.tick
  · exact .inr (.inr ⟨⟨rfl, rfl⟩, rfl⟩)
  · exact .inr (.inl ⟨⟨rfl, rfl⟩, rfl⟩)
  · exact .inl ⟨rfl, rfl⟩
  · exact .inl ⟨rfl, rfl⟩

theorem step_of_rst {s : State} (h : s.port.rst = true) :
    step s = .next (resetRegisters s).passEdge := by
  rcases step_cases s with ⟨-, hs⟩ | ⟨⟨h0, -⟩, -⟩ | ⟨⟨h0, -⟩, -⟩
  · exact hs
  · simp [h] at h0
  · simp [h] at h0

theorem step_of_tick {s : State} (h : s.port.IsTick) : step s = .next s.afterTick := by
  rcases step_cases s with ⟨h0, -⟩ | ⟨-, hs⟩ | ⟨⟨-, h0⟩, -⟩
  · simp [h.1] at h0
  · exact hs
  · simp [h.2] at h0

theorem step_of_hold {s : State} (h : s.port.rst = false ∧ s.port.tick = false) :
    step s = .next s.passEdge := by
  rcases step_cases s with ⟨h0, -⟩ | ⟨⟨-, h0⟩, -⟩ | ⟨-, hs⟩
  · simp [h.1] at h0
  · simp [h.2] at h0
  · exact hs

@[simp] theorem afterTick_params (s : State) : s.afterTick.params = s.params := rfl

@[simp] theorem afterTick_encState (s : State) :
    s.afterTick.encState = (decodeStep s.encState (encInput s.params s.port.raw)).1.code := rfl

@[simp] theorem afterTick_dbHist (s : State) :
    s.afterTick.dbHist = sampleStep s.params s.dbHist (btnInput s.params s.port.raw) := rfl

@[simp] theorem afterTick_lastEncEvent (s : State) :
    s.afterTick.lastEncEvent =
      (decodeStep s.encState (encInput s.params s.port.raw)).2.code := rfl

@[simp] theorem afterTick_lastBtnEvent (s : State) :
    s.afterTick.lastBtnEvent =
      pressEdge s.params s.dbHist
        (sampleStep s.params s.dbHist (btnInput s.params s.port.raw)) := rfl

@[simp] theorem afterTick_inputs (s : State) : s.afterTick.inputs = s.inputs.tail := rfl

/-- R201: an edge always has a next state, with the same parameters and one edge fewer to come. -/
theorem step_next (s : State) :
    ∃ t, step s = .next t ∧ t.params = s.params ∧ t.inputs.length = s.inputs.length - 1 := by
  rcases step_cases s with ⟨-, h⟩ | ⟨-, h⟩ | ⟨-, h⟩ <;>
    exact ⟨_, h, rfl, by simp⟩

/-! ## Runs -/

@[simp] theorem run_zero (s : State) : run 0 s = .next s := rfl

theorem run_succ_of_step {s t : State} (n : Nat) (h : step s = .next t) :
    run (n + 1) s = run n t := by
  have hc : Host.Core.step Sys2Proof.core s = .next t := h
  simp only [run, Host.Core.run]
  rw [hc]

theorem statesAfter_succ_of_step {s t : State} (n : Nat) (h : step s = .next t) :
    statesAfter (n + 1) s = t :: statesAfter n t := by
  simp [statesAfter, h]

/-- Two runs one after the other are one run. -/
theorem run_add {s t : State} {m : Nat} (n : Nat) (h : run m s = .next t) :
    run (m + n) s = run n t := by
  induction m generalizing s with
  | zero =>
    obtain rfl : s = t := by simpa using h
    simp
  | succ m ih =>
    obtain ⟨u, hu, -⟩ := step_next s
    rw [run_succ_of_step m hu] at h
    rw [Nat.succ_add, run_succ_of_step _ hu]
    exact ih h

/-! ## What the environment feeds -/

theorem feedsEncoder_cons {s : State} {i : EncInput} {ins : List EncInput}
    (h : s.FeedsEncoder (i :: ins)) :
    s.port.IsTick ∧ encInput s.params s.port.raw = i ∧ s.afterTick.FeedsEncoder ins := by
  obtain ⟨hT, hM⟩ := h
  unfold State.FeedsEncoder State.port
  simp only [afterTick_inputs]
  cases hi : s.inputs with
  | nil => simp [hi] at hM
  | cons e rest =>
    simp only [hi, List.length_cons, List.take_succ_cons, List.map_cons, List.cons.injEq,
      List.mem_cons, forall_eq_or_imp] at hT hM
    exact ⟨hT.1, hM.1, hT.2, hM.2⟩

theorem feedsButton_cons {s : State} {b : Bool} {bs : List Bool}
    (h : s.FeedsButton (b :: bs)) :
    s.port.IsTick ∧ btnInput s.params s.port.raw = b ∧ s.afterTick.FeedsButton bs := by
  obtain ⟨hT, hM⟩ := h
  unfold State.FeedsButton State.port
  simp only [afterTick_inputs]
  cases hi : s.inputs with
  | nil => simp [hi] at hM
  | cons e rest =>
    simp only [hi, List.length_cons, List.take_succ_cons, List.map_cons, List.cons.injEq,
      List.mem_cons, forall_eq_or_imp] at hT hM
    exact ⟨hT.1, hM.1, hT.2, hM.2⟩

end Sys2Proof.Machine
end

