-- ==== Sys2Proof/Laws/Encoder.lean ====
section
/-! SUPPORT. The encoder side of a run: what a decode operation does, and the state codes and events a
fed input sequence gives, as a function of the state code alone. -/

namespace Sys2Proof.Machine

/-- The operation of the key of this state code and input. -/
theorem decode_qdKey (c : StateCode) (input : EncInput) :
    decode .qd [BitVec.ofNat 8 (4 * c.toNat + input.toNat)] = .ok (decodeQd (qdKey c input)) := by
  revert c input
  decide

/-- A row of format QD does what the decode step does for its key: the rules R103 to R131 and the
tables R101, R102 agree. -/
theorem exec_decodeQd (c : StateCode) (input : EncInput) (s : State) :
    exec (decodeQd (qdKey c input)) s =
      .next (applyEntry (decodeStep c input).1 (decodeStep c input).2 s) := by
  rcases EncState.ofCode_cases c with ⟨st, -, rfl⟩ | ⟨-, rfl⟩
  · rcases encInput_cases input with rfl | rfl | rfl | rfl <;> cases st <;> rfl
  · rcases encInput_cases input with rfl | rfl | rfl | rfl <;> rfl

/-- One tick of a fed encoder sequence. -/
theorem tick_of_feedsEncoder {s : State} {i : EncInput} {ins : List EncInput}
    (h : s.FeedsEncoder (i :: ins)) :
    step s = .next s.afterTick ∧
      s.afterTick.encState = (decodeStep s.encState i).1.code ∧
      s.afterTick.lastEncEvent = (decodeStep s.encState i).2.code ∧
      s.afterTick.FeedsEncoder ins := by
  obtain ⟨ht, hi, hrest⟩ := feedsEncoder_cons h
  refine ⟨step_of_tick ht, ?_, ?_, hrest⟩
  · rw [afterTick_encState, hi]
  · rw [afterTick_lastEncEvent, hi]

/-- The state code and event after each input, from this state code. -/
def encTrace : StateCode → List EncInput → List (StateCode × EventCode)
  | _, [] => []
  | c, i :: ins =>
    ((decodeStep c i).1.code, (decodeStep c i).2.code) :: encTrace (decodeStep c i).1.code ins

/-- The state code after all inputs. -/
def encFinal : StateCode → List EncInput → StateCode
  | c, [] => c
  | c, i :: ins => encFinal (decodeStep c i).1.code ins

theorem statesAfter_encoder (ins : List EncInput) :
    ∀ s : State, s.FeedsEncoder ins →
      (statesAfter ins.length s).map (fun t => (t.encState, t.lastEncEvent)) =
        encTrace s.encState ins := by
  induction ins with
  | nil => intro s _; rfl
  | cons i ins ih =>
    intro s h
    obtain ⟨hstep, hcode, hev, hrest⟩ := tick_of_feedsEncoder h
    rw [List.length_cons, statesAfter_succ_of_step _ hstep, List.map_cons, ih _ hrest, hcode, hev]
    rfl

theorem run_encoder (ins : List EncInput) :
    ∀ s : State, s.FeedsEncoder ins →
      ∃ t, run ins.length s = .next t ∧ t.encState = encFinal s.encState ins := by
  induction ins with
  | nil => intro s _; exact ⟨s, rfl, rfl⟩
  | cons i ins ih =>
    intro s h
    obtain ⟨hstep, hcode, -, hrest⟩ := tick_of_feedsEncoder h
    obtain ⟨t, hrun, ht⟩ := ih _ hrest
    refine ⟨t, ?_, ?_⟩
    · rw [List.length_cons, run_succ_of_step _ hstep, hrun]
    · rw [ht, hcode]
      rfl

theorem encFinal_append (c : StateCode) (a b : List EncInput) :
    encFinal c (a ++ b) = encFinal (encFinal c a) b := by
  induction a generalizing c with
  | nil => rfl
  | cons i a ih => simp [encFinal, ih]

theorem encTrace_append (c : StateCode) (a b : List EncInput) :
    encTrace c (a ++ b) = encTrace c a ++ encTrace (encFinal c a) b := by
  induction a generalizing c with
  | nil => rfl
  | cons i a ih => simp [encTrace, encFinal, ih]

end Sys2Proof.Machine
end

