-- ==== Sys2Proof/Laws/Filter.lean ====
section
/-! SUPPORT. The filter side of a tick: the history after a sample, part by part, and one tick of a fed
button sequence. -/

namespace Sys2Proof.Machine

/-- R167: the newest sample is at bit 0. -/
theorem sampleStep_newest {p : Params} (hp : p.Wf) (h : BitVec p.dbW) (b : Bool) :
    (sampleStep p h b).getLsbD 0 = b := by
  obtain ⟨hW, hN, -⟩ := hp
  have hw : 0 < p.dbW := hW
  have hn : ¬ p.dbN ≤ 0 := by omega
  rw [sampleStep_getLsbD]
  simp [hw, hn]

/-- R167: the window moves up by one. -/
theorem sampleStep_window {p : Params} (hp : p.Wf) (h : BitVec p.dbW) (b : Bool) {k : Nat}
    (hk : k + 1 < p.dbN) : (sampleStep p h b).getLsbD (k + 1) = h.getLsbD k := by
  obtain ⟨-, -, hNW, -⟩ := hp
  have hw : k + 1 < p.dbW := by omega
  have hn : ¬ p.dbN ≤ k + 1 := by omega
  rw [sampleStep_getLsbD]
  simp [hw, hn]

/-- R35, R167: the guard bits are 1, whatever the history was. -/
theorem sampleStep_guard (p : Params) (h : BitVec p.dbW) (b : Bool) {k : Nat}
    (hn : p.dbN ≤ k) (hw : k < p.dbW) : (sampleStep p h b).getLsbD k = true := by
  rw [sampleStep_getLsbD]
  simp [hw, hn]

/-- The level output of a state. -/
theorem btnStable_iff (s : State) :
    s.outputs.btnStable = true ↔ ∀ k < s.params.dbW, s.dbHist.getLsbD k = true :=
  stableLevel_iff _ _

/-- One tick of a fed button sequence. -/
theorem tick_of_feedsButton {s : State} {b : Bool} {bs : List Bool}
    (h : s.FeedsButton (b :: bs)) :
    step s = .next s.afterTick ∧
      s.afterTick.dbHist = sampleStep s.params s.dbHist b ∧
      s.afterTick.lastBtnEvent = pressEdge s.params s.dbHist (sampleStep s.params s.dbHist b) ∧
      s.afterTick.FeedsButton bs := by
  obtain ⟨ht, hb, hrest⟩ := feedsButton_cons h
  refine ⟨step_of_tick ht, ?_, ?_, hrest⟩
  · rw [← hb]
    rfl
  · rw [afterTick_lastBtnEvent, hb]

/-- A tick leaves the registers legal, from any state (R35 to R37). -/
theorem legal_afterTick (s : State) : s.afterTick.Legal := by
  refine ⟨fun k hk hn => ?_, ?_, ?_⟩
  · exact sampleStep_guard s.params s.dbHist _ hn hk
  · simp [EncState.code_le_six]
  · simp [EncEvent.code_le_two]

/-- A reset leaves the registers legal, from any state (R35 to R37). -/
theorem legal_resetRegisters (s : State) : (resetRegisters s).Legal := by
  refine ⟨fun k hk hn => ?_, by simp, by simp⟩
  show (dbGuard s.params).getLsbD k = true
  rw [dbGuard_getLsbD, Bool.and_eq_true, decide_eq_true_eq, decide_eq_true_eq]
  exact ⟨hk, hn⟩

end Sys2Proof.Machine
end

