-- ==== Sys2Proof/Laws/PerInstr.lean ====
section
/-! SUPPORT. Statements made per operation. -/

namespace Sys2Proof.Laws.EncodingRoundTrip

/-- The decoder reads back what the encoder writes (spec/30_encoding.md R65, R66). -/
def Statement (i : Instr) : Prop :=
  decode (encode i).1 (encode i).2 = .ok i

theorem qdIdle0 : Statement .qdIdle0 := rfl

theorem qdIdle1 : Statement .qdIdle1 := rfl

theorem qdIdle2 : Statement .qdIdle2 := rfl

theorem qdIdle3 : Statement .qdIdle3 := rfl

theorem qdCwA0 : Statement .qdCwA0 := rfl

theorem qdCwA1 : Statement .qdCwA1 := rfl

theorem qdCwA2 : Statement .qdCwA2 := rfl

theorem qdCwA3 : Statement .qdCwA3 := rfl

theorem qdCwB0 : Statement .qdCwB0 := rfl

theorem qdCwB1 : Statement .qdCwB1 := rfl

theorem qdCwB2 : Statement .qdCwB2 := rfl

theorem qdCwB3 : Statement .qdCwB3 := rfl

theorem qdCwC0 : Statement .qdCwC0 := rfl

theorem qdCwC1 : Statement .qdCwC1 := rfl

theorem qdCwC2 : Statement .qdCwC2 := rfl

theorem qdCwC3 : Statement .qdCwC3 := rfl

theorem qdCcwA0 : Statement .qdCcwA0 := rfl

theorem qdCcwA1 : Statement .qdCcwA1 := rfl

theorem qdCcwA2 : Statement .qdCcwA2 := rfl

theorem qdCcwA3 : Statement .qdCcwA3 := rfl

theorem qdCcwB0 : Statement .qdCcwB0 := rfl

theorem qdCcwB1 : Statement .qdCcwB1 := rfl

theorem qdCcwB2 : Statement .qdCcwB2 := rfl

theorem qdCcwB3 : Statement .qdCcwB3 := rfl

theorem qdCcwC0 : Statement .qdCcwC0 := rfl

theorem qdCcwC1 : Statement .qdCcwC1 := rfl

theorem qdCcwC2 : Statement .qdCcwC2 := rfl

theorem qdCcwC3 : Statement .qdCcwC3 := rfl

theorem qdRsvd (input : EncInput) : Statement (.qdRsvd input) := by
  rcases encInput_cases input with rfl | rfl | rfl | rfl <;> rfl

theorem dbSample0 : Statement .dbSample0 := rfl

theorem dbSample1 : Statement .dbSample1 := rfl

theorem ctlReset (tick : BitVec 1) : Statement (.ctlReset tick) := by
  revert tick
  unfold Statement
  decide

theorem ctlTick : Statement .ctlTick := rfl

theorem ctlHold : Statement .ctlHold := rfl

end Sys2Proof.Laws.EncodingRoundTrip
end

