-- ==== Sys2Proof/Tests/Slice0.lean ====
section
/-! SUPPORT. Tests. Expected results come from spec/95_test_vectors.md and spec/opcode_table.json; each
test is about one step. The last section gives, for each statement with hypotheses, a state that
meets them. -/

namespace Sys2Proof.Tests

open Sys2Proof.Machine

/-! ## Helpers -/

/-- An instance with the default parameters. -/
def st (enc : StateCode) (hist : BitVec 16) (ev : EventCode) (btn : Bool)
    (ins : List (PortSample 3)) : State :=
  { params := Params.standard, encState := enc, dbHist := hist, lastEncEvent := ev
    lastBtnEvent := btn, inputs := ins }

/-- The parameters of the vectors of spec/95_test_vectors.md section 4.2. -/
def widePos : Params :=
  { dbW := 16, dbN := 8, rawW := 16, posA := 6, posB := 9, posBtn := 13 }

/-- An instance with those parameters. -/
def wideSt (enc : StateCode) (hist : BitVec 16) (ins : List (PortSample 16)) : State :=
  { params := widePos, encState := enc, dbHist := hist, lastEncEvent := 0#2
    lastBtnEvent := false, inputs := ins }

/-- An edge with the default raw width. -/
def edge (rst tick : Bool) (raw : BitVec 3) : PortSample 3 :=
  { rst := rst, tick := tick, raw := raw }

/-- A tick with the default raw width. -/
def tick (raw : BitVec 3) : PortSample 3 := edge false true raw

/-- State code, history, event, edge and level after an outcome. -/
def seen (o : Host.Outcome State Fault Refusal) : Option (Nat × Nat × Nat × Bool × Bool) :=
  match o with
  | .next s => some (s.encState.toNat, s.dbHist.toNat, s.lastEncEvent.toNat, s.lastBtnEvent,
      s.outputs.btnStable)
  | .fault _ => none
  | .refused _ => none

/-! ## Well-formedness: each check refuses an ill-formed set -/

theorem test_wf_standard : Params.standard.Wf := by decide

theorem test_wf_widePos : widePos.Wf := by decide

theorem test_wf_refuses_empty_history :
    ¬ ({ Params.standard with dbW := 0 } : Params).HistoryHasBits := by decide

theorem test_wf_refuses_empty_window :
    ¬ ({ Params.standard with dbN := 0 } : Params).WindowNonempty := by decide

theorem test_wf_refuses_long_window :
    ¬ ({ Params.standard with dbN := 17 } : Params).WindowFits := by decide

theorem test_wf_refuses_narrow_raw :
    ¬ ({ Params.standard with rawW := 2 } : Params).RawWideEnough := by decide

theorem test_wf_refuses_position_outside :
    ¬ ({ Params.standard with posBtn := 3 } : Params).PositionsInRaw := by decide

theorem test_wf_refuses_shared_position :
    ¬ ({ Params.standard with posB := 0 } : Params).PositionsDistinct := by decide

/-! ## Decoding: the rows of spec/opcode_table.json, columns `mask`, `match` -/

/-- One row of the table. -/
structure Row where
  /-- The row's format. -/
  format : Format
  /-- The key bits the row looks at. -/
  mask : Byte
  /-- Their value. -/
  value : Byte
  /-- The operation the row stands for, given the key. -/
  names : Byte → Instr → Bool

/-- A row whose operation carries no key bits. -/
def row (f : Format) (mask value : Byte) (i : Instr) : Row :=
  { format := f, mask := mask, value := value, names := fun _ j => j == i }

/-- Rows of the table: Idle. -/
def rowsIdle : List Row :=
  [row .qd 0x1F#8 0x00#8 .qdIdle0,
   row .qd 0x1F#8 0x01#8 .qdIdle1,
   row .qd 0x1F#8 0x02#8 .qdIdle2,
   row .qd 0x1F#8 0x03#8 .qdIdle3]

/-- Rows of the table: CW_A. -/
def rowsCwA : List Row :=
  [row .qd 0x1F#8 0x04#8 .qdCwA0,
   row .qd 0x1F#8 0x05#8 .qdCwA1,
   row .qd 0x1F#8 0x06#8 .qdCwA2,
   row .qd 0x1F#8 0x07#8 .qdCwA3]

/-- Rows of the table: CW_B. -/
def rowsCwB : List Row :=
  [row .qd 0x1F#8 0x08#8 .qdCwB0,
   row .qd 0x1F#8 0x09#8 .qdCwB1,
   row .qd 0x1F#8 0x0A#8 .qdCwB2,
   row .qd 0x1F#8 0x0B#8 .qdCwB3]

/-- Rows of the table: CW_C. -/
def rowsCwC : List Row :=
  [row .qd 0x1F#8 0x0C#8 .qdCwC0,
   row .qd 0x1F#8 0x0D#8 .qdCwC1,
   row .qd 0x1F#8 0x0E#8 .qdCwC2,
   row .qd 0x1F#8 0x0F#8 .qdCwC3]

/-- Rows of the table: CCW_A. -/
def rowsCcwA : List Row :=
  [row .qd 0x1F#8 0x10#8 .qdCcwA0,
   row .qd 0x1F#8 0x11#8 .qdCcwA1,
   row .qd 0x1F#8 0x12#8 .qdCcwA2,
   row .qd 0x1F#8 0x13#8 .qdCcwA3]

/-- Rows of the table: CCW_B. -/
def rowsCcwB : List Row :=
  [row .qd 0x1F#8 0x14#8 .qdCcwB0,
   row .qd 0x1F#8 0x15#8 .qdCcwB1,
   row .qd 0x1F#8 0x16#8 .qdCcwB2,
   row .qd 0x1F#8 0x17#8 .qdCcwB3]

/-- Rows of the table: CCW_C. -/
def rowsCcwC : List Row :=
  [row .qd 0x1F#8 0x18#8 .qdCcwC0,
   row .qd 0x1F#8 0x19#8 .qdCcwC1,
   row .qd 0x1F#8 0x1A#8 .qdCcwC2,
   row .qd 0x1F#8 0x1B#8 .qdCcwC3]

/-- Rows of the table: reserved. -/
def rowsReserved : List Row :=
  [⟨.qd, 0x1C#8, 0x1C#8, fun b j => j == .qdRsvd (b.setWidth 2)⟩]

/-- Rows of the table: DB. -/
def rowsDb : List Row :=
  [row .db 0x01#8 0x00#8 .dbSample0,
   row .db 0x01#8 0x01#8 .dbSample1]

/-- Rows of the table: CTL. -/
def rowsCtl : List Row :=
  [⟨.ctl, 0x02#8, 0x02#8, fun b j => j == .ctlReset (b.setWidth 1)⟩,
   row .ctl 0x03#8 0x01#8 .ctlTick,
   row .ctl 0x03#8 0x00#8 .ctlHold]

/-- All rows. -/
def rows : List Row :=
  rowsIdle ++ rowsCwA ++ rowsCwB ++ rowsCwC ++ rowsCcwA ++ rowsCcwB ++ rowsCcwC ++ rowsReserved ++
    rowsDb ++ rowsCtl

/-- The rows of a format that a key matches. -/
def Row.matching (f : Format) (b : Byte) : List Row :=
  rows.filter (fun r => r.format == f && (b &&& r.mask) == r.value)

/-- Every key matches exactly one row of its format, and decodes to that row's operation. -/
def keyFollowsTable (f : Format) (b : Byte) : Bool :=
  match Row.matching f b, decode f [b] with
  | [r], .ok i => r.names b i
  | _, _ => false

theorem test_rows_count : rows.length = 34 := by decide

theorem test_decode_qd_keys :
    (List.range 32).all (fun k => keyFollowsTable .qd (BitVec.ofNat 8 k)) = true := by decide

theorem test_decode_db_keys :
    (List.range 2).all (fun k => keyFollowsTable .db (BitVec.ofNat 8 k)) = true := by decide

theorem test_decode_ctl_keys :
    (List.range 4).all (fun k => keyFollowsTable .ctl (BitVec.ofNat 8 k)) = true := by decide

theorem test_decode_rejects_wide_qd : decode .qd [0b100000#8] = .error .bitsAboveKey := by decide

theorem test_decode_rejects_wide_db : decode .db [0b10#8] = .error .bitsAboveKey := by decide

theorem test_decode_rejects_no_byte : decode .ctl [] = .error .noByte := by decide

theorem test_decode_rejects_two_bytes :
    decode .qd [0b00000#8, 0#8] = .error .extraBytes := by decide

theorem test_table_word_qd : decodeTableWord 8 0x0C = some .qdCwC0 := by decide

theorem test_table_word_db : decodeTableWord 1 1 = some .dbSample1 := by decide

theorem test_table_word_ctl : decodeTableWord 2 1 = some .ctlTick := by decide

/-! ## Format QD: section 2.1, one tick per row, from a history at reset -/

/-- A tick with this input in this state gives this state and event, and so does the row itself. -/
def entryOk (i : Instr) (before input after event : Nat) : Bool :=
  seen (step (st (BitVec.ofNat 3 before) 0xFF00#16 3#2 true [tick (BitVec.ofNat 3 input)])) ==
      some (after, 0xFF00, event, false, false) &&
    seen (exec i (st (BitVec.ofNat 3 before) 0xFF0F#16 3#2 true [])) ==
      some (after, 0xFF0F, event, true, false)

theorem test_entries_idle :
    entryOk .qdIdle0 0 0 0 0 = true ∧
    entryOk .qdIdle1 0 1 1 0 = true ∧
    entryOk .qdIdle2 0 2 4 0 = true ∧
    entryOk .qdIdle3 0 3 0 0 = true := by
  decide

theorem test_entries_cw_a :
    entryOk .qdCwA0 1 0 2 0 = true ∧
    entryOk .qdCwA1 1 1 1 0 = true ∧
    entryOk .qdCwA2 1 2 0 0 = true ∧
    entryOk .qdCwA3 1 3 0 0 = true := by
  decide

theorem test_entries_cw_b :
    entryOk .qdCwB0 2 0 2 0 = true ∧
    entryOk .qdCwB1 2 1 1 0 = true ∧
    entryOk .qdCwB2 2 2 3 0 = true ∧
    entryOk .qdCwB3 2 3 0 0 = true := by
  decide

theorem test_entries_cw_c :
    entryOk .qdCwC0 3 0 0 1 = true ∧
    entryOk .qdCwC1 3 1 0 0 = true ∧
    entryOk .qdCwC2 3 2 3 0 = true ∧
    entryOk .qdCwC3 3 3 0 0 = true := by
  decide

theorem test_entries_ccw_a :
    entryOk .qdCcwA0 4 0 5 0 = true ∧
    entryOk .qdCcwA1 4 1 0 0 = true ∧
    entryOk .qdCcwA2 4 2 4 0 = true ∧
    entryOk .qdCcwA3 4 3 0 0 = true := by
  decide

theorem test_entries_ccw_b :
    entryOk .qdCcwB0 5 0 5 0 = true ∧
    entryOk .qdCcwB1 5 1 6 0 = true ∧
    entryOk .qdCcwB2 5 2 4 0 = true ∧
    entryOk .qdCcwB3 5 3 0 0 = true := by
  decide

theorem test_entries_ccw_c :
    entryOk .qdCcwC0 6 0 0 2 = true ∧
    entryOk .qdCcwC1 6 1 6 0 = true ∧
    entryOk .qdCcwC2 6 2 0 0 = true ∧
    entryOk .qdCcwC3 6 3 0 0 = true := by
  decide

theorem test_entry_reserved :
    (List.range 4).all (fun i => entryOk (.qdRsvd (BitVec.ofNat 2 i)) 7 i 0 0) = true := by decide

/-! ## Format DB: sections 3.1 and 3.2 -/

/-- A sample operation on this history gives this history, edge and level. -/
def sampleOk (i : Instr) (before after : BitVec 16) (press stable : Bool) : Bool :=
  seen (exec i (st 2#3 before 1#2 true [])) == some (2, after.toNat, 1, press, stable)

theorem test_sample0 :
    sampleOk .dbSample0 0xFF00#16 0xFF00#16 false false = true ∧
    sampleOk .dbSample0 0xFF7F#16 0xFFFE#16 false false = true ∧
    sampleOk .dbSample0 0xFFFF#16 0xFFFE#16 false false = true ∧
    sampleOk .dbSample0 0xFFAA#16 0xFF54#16 false false = true := by
  decide

theorem test_sample1 :
    sampleOk .dbSample1 0xFF00#16 0xFF01#16 false false = true ∧
    sampleOk .dbSample1 0xFF7F#16 0xFFFF#16 true true = true ∧
    sampleOk .dbSample1 0xFFFF#16 0xFFFF#16 false true = true ∧
    sampleOk .dbSample1 0xFFFE#16 0xFFFD#16 false false = true ∧
    sampleOk .dbSample1 0xFFBF#16 0xFF7F#16 false false = true ∧
    sampleOk .dbSample1 0xFF80#16 0xFF01#16 false false = true ∧
    sampleOk .dbSample1 0x0000#16 0xFF01#16 false false = true ∧
    sampleOk .dbSample1 0x007F#16 0xFFFF#16 true true = true := by
  decide

/-- Section 3.2: `DB_W` 4, `DB_N` 4 has no guard bits; the fourth closed sample. -/
theorem test_sample_no_guard :
    (dbGuard { Params.standard with dbW := 4, dbN := 4 }).toNat = 0 ∧
    (sampleStep { Params.standard with dbW := 4, dbN := 4 } 0x7#4 true).toNat = 0xF := by decide

/-- Section 3.2: `DB_W` 8, `DB_N` 3. -/
theorem test_sample_short_window :
    (dbGuard { Params.standard with dbW := 8, dbN := 3 }).toNat = 0xF8 ∧
    (sampleStep { Params.standard with dbW := 8, dbN := 3 } 0xFE#8 true).toNat = 0xFD := by decide

/-- Section 3.2: `DB_W` 1, `DB_N` 1 passes the input through. -/
theorem test_sample_one_bit :
    (sampleStep { Params.standard with dbW := 1, dbN := 1 } 0x1#1 false).toNat = 0 ∧
    (sampleStep { Params.standard with dbW := 1, dbN := 1 } 0x0#1 true).toNat = 1 := by decide

/-! ## Format CTL: sections 4.1 and 4.2 -/

theorem test_reset : seen (step (st 3#3 0xFF7F#16 0#2 false [edge true false 5#3])) =
    some (0, 0xFF00, 0, false, false) := by decide

theorem test_reset_wins_over_tick : seen (step (st 3#3 0xFF7F#16 0#2 false [edge true true 4#3])) =
    some (0, 0xFF00, 0, false, false) := by decide

theorem test_hold : seen (step (st 2#3 0xFF0F#16 0#2 false [edge false false 7#3])) =
    some (2, 0xFF0F, 0, false, false) := by decide

theorem test_hold_keeps_events : seen (step (st 0#3 0xFFFF#16 1#2 true [edge false false 2#3])) =
    some (0, 0xFFFF, 1, true, true) := by decide

theorem test_tick_both_events : seen (step (st 3#3 0xFF7F#16 0#2 false [tick 4#3])) =
    some (0, 0xFFFF, 1, true, true) := by decide

theorem test_tick_clears_events : seen (step (st 0#3 0xFFFF#16 1#2 true [tick 0#3])) =
    some (0, 0xFFFE, 0, false, false) := by decide

theorem test_tick_no_click_on_three : seen (step (st 6#3 0xFFFF#16 0#2 false [tick 7#3])) =
    some (0, 0xFFFF, 0, false, true) := by decide

/-- R191's example, from reset. -/
theorem test_tick_from_reset : seen (step (State.initial Params.standard [tick 5#3])) =
    some (1, 0xFF01, 0, false, false) := by decide

/-- With nothing scheduled the block holds. -/
theorem test_reset_holds : step State.reset = .next State.reset := by rfl

theorem test_unowned_bits :
    ∀ x ∈ ([
        (0x0000#16, 2, 0xFFFE, 0, false, false),
        (0xDDBF#16, 2, 0xFFFE, 0, false, false),
        (0x0040#16, 1, 0xFFFE, 0, false, false),
        (0xDDFF#16, 1, 0xFFFE, 0, false, false),
        (0x0200#16, 3, 0xFFFE, 0, false, false),
        (0x2200#16, 3, 0xFFFF, 0, true, true),
        (0xFFFF#16, 0, 0xFFFF, 0, true, true),
        (0x2240#16, 0, 0xFFFF, 0, true, true)] :
        List (BitVec 16 × Nat × Nat × Nat × Bool × Bool)),
      seen (step (wideSt 2#3 0xFF7F#16 [⟨false, true, x.1⟩])) = some x.2 := by
  decide

/-! ## Loading -/

theorem test_loaded_qd_runs : seen (step (State.reset.withFetchWord 8 0x0C)) =
    some (0, 0xFF00, 1, false, false) := by decide

theorem test_loaded_db_runs : seen (step (State.reset.withFetchWord 1 1)) =
    some (0, 0xFF01, 0, false, false) := by decide

theorem test_loaded_ctl_runs :
    seen (step ((st 3#3 0xFF7F#16 1#2 true []).withFetchWord 2 2)) =
    some (0, 0xFF00, 0, false, false) := by decide

/-! ## Witnesses: states and operands that meet the hypotheses of the statements -/

/-- A state with this code that feeds these encoder inputs, button open. -/
def feeding (enc : StateCode) (ins : List EncInput) : State :=
  st enc 0xFF00#16 0#2 false (encoderTicks Params.standard ins)

/-- A state with this history that feeds these button levels, encoder at rest. -/
def pressing (hist : BitVec 16) (bs : List Bool) : State :=
  st 0#3 hist 0#2 false (bs.map (fun b => tickSample Params.standard 0 b))

theorem witness_DecodeAndEncodeAgree :
    decode .qd [31#8] = .ok (.qdRsvd 3#2) ∧ decode .db [1#8] = .ok .dbSample1 ∧
    decode .ctl [3#8] = .ok (.ctlReset 1#1) := by decide

theorem witness_ExactlyTheKeysDecode :
    (31#8).toNat < 32 ∧ 32 ≤ (32#8).toNat ∧ (1#8).toNat < 2 ∧ 2 ≤ (2#8).toNat ∧
    (3#8).toNat < 4 ∧ 4 ≤ (4#8).toNat := by decide

theorem witness_StepRunsTheSelectedOperation :
    (st 0#3 0xFF00#16 0#2 false [tick 4#3]).inputs = tick 4#3 :: [] ∧
    (st 0#3 0xFF00#16 0#2 false []).inputs = [] ∧
    decode .ctl [BitVec.ofNat 8 (2 * (tick 4#3).rst.toNat + (tick 4#3).tick.toNat)] =
      .ok .ctlTick ∧
    seen (exec .ctlTick (st 0#3 0xFF00#16 0#2 false [tick 4#3])) =
      some (0, 0xFF01, 0, false, false) :=
  ⟨rfl, rfl, by decide, by decide⟩

theorem witness_TickIsOneDecodeAndOneSample :
    decode .qd [BitVec.ofNat 8 (4 * (feeding 3#3 [0]).encState.toNat +
      (encInput (feeding 3#3 [0]).params (feeding 3#3 [0]).port.raw).toNat)] = .ok .qdCwC0 ∧
    decode .db [BitVec.ofNat 8
      (btnInput (feeding 3#3 [0]).params (feeding 3#3 [0]).port.raw).toNat] = .ok .dbSample0 := by
  decide

theorem witness_LoadedKeyRuns : State.reset.params.Wf ∧ decodeTableWord 8 31 = some (.qdRsvd 3#2) := by
  decide

theorem witness_InputThreeEntries :
    ∀ seq ∈ ([[3], [1, 3], [1, 0, 3], [1, 0, 2, 3], [2, 3], [2, 0, 3], [2, 0, 1, 3]] :
      List (List EncInput)),
      (feeding 0#3 seq).encState = 0#3 ∧ (feeding 0#3 seq).FeedsEncoder seq := by decide

theorem witness_DetentPathEntries :
    (∀ seq ∈ ([[1, 0], [1, 0, 2], [1, 0, 2, 0], [2, 0], [2, 0, 1], [2, 0, 1, 0]] :
      List (List EncInput)),
      (feeding 0#3 seq).encState = 0#3 ∧ (feeding 0#3 seq).FeedsEncoder seq) ∧
    (encode .qdCwC0).1 = .qd ∧ (encode .qdCcwC0).1 = .qd ∧
    exec .qdCwC0 (feeding 3#3 []) = .next { feeding 0#3 [] with lastEncEvent := 1#2 } ∧
    exec .qdCcwC0 (feeding 6#3 []) = .next { feeding 0#3 [] with lastEncEvent := 2#2 } :=
  ⟨by decide, rfl, rfl, rfl, rfl⟩

theorem witness_FirstStepEntries :
    ∀ seq ∈ ([[1], [2]] : List (List EncInput)),
      (feeding 0#3 seq).encState = 0#3 ∧ (feeding 0#3 seq).FeedsEncoder seq := by decide

theorem witness_HoldEntries :
    ∀ seq ∈ ([[0, 0, 0], [1, 1, 1], [1, 0, 0, 0], [1, 0, 2, 2], [2, 2], [2, 0, 0], [2, 0, 1, 1]] :
      List (List EncInput)),
      (feeding 0#3 seq).encState = 0#3 ∧ (feeding 0#3 seq).FeedsEncoder seq := by decide

theorem witness_BackwardAndSkipEntries :
    ∀ seq ∈ ([[1, 0, 1], [2, 0, 2], [1, 2], [2, 1], [1, 0, 2, 1], [2, 0, 1, 2]] :
      List (List EncInput)),
      (feeding 0#3 seq).encState = 0#3 ∧ (feeding 0#3 seq).FeedsEncoder seq := by decide

theorem witness_ReservedCodeGoesToIdle :
    (feeding 7#3 [1]).encState = 7#3 ∧ (feeding 7#3 [1]).port.IsTick := by decide

theorem witness_TableIsTotal :
    run 0 (State.initial Params.standard []) = .next State.reset ∧
    ∃ t, run 1 (State.initial Params.standard [tick 1#3]) = .next t ∧ t.encState = 1#3 :=
  ⟨rfl, _, rfl, by decide⟩

theorem witness_ReservedInputIsLegal :
    (feeding 3#3 [3]).port.IsTick ∧
    encInput (feeding 3#3 [3]).params (feeding 3#3 [3]).port.raw = 3#2 := by decide

/-- One state per clause: the tick enters or keeps each of the six intermediates. -/
theorem witness_IntermediatesHaveTheirOnlyWaysIn :
    ∀ x ∈ ([(0, 1, 1), (2, 1, 1), (1, 1, 1), (1, 0, 2), (2, 0, 2), (2, 2, 3), (3, 2, 3),
        (0, 2, 4), (5, 2, 4), (4, 2, 4), (4, 0, 5), (5, 0, 5), (5, 1, 6), (6, 1, 6)] :
        List (StateCode × EncInput × Nat)),
      (feeding x.1 [x.2.1]).port.IsTick ∧
      seen (step (feeding x.1 [x.2.1])) = some (x.2.2, 0xFF00, 0, false, false) := by decide

theorem witness_ClickNeedsAWholeDetent :
    (feeding 0#3 [1, 0, 2, 0]).FeedsEncoder [1, 0, 2, 0] ∧
    (∃ t, run 4 (feeding 0#3 [1, 0, 2, 0]) = .next t ∧ t.lastEncEvent = 1#2) ∧
    (feeding 0#3 [2, 0, 1, 0]).FeedsEncoder [2, 0, 1, 0] ∧
    (∃ t, run 4 (feeding 0#3 [2, 0, 1, 0]) = .next t ∧ t.lastEncEvent = 2#2) :=
  ⟨by decide, ⟨_, rfl, by decide⟩, by decide, ⟨_, rfl, by decide⟩⟩

theorem witness_CleanDetentGivesOneClick :
    (feeding 0#3 cwDetent).FeedsEncoder [1, 0, 2, 0] ∧
    (feeding 0#3 ccwDetent).FeedsEncoder [2, 0, 1, 0] := by decide

theorem witness_OppositeFirstStepCancels :
    (feeding 0#3 cancelCw).FeedsEncoder [1, 2] ∧
    (feeding 0#3 cancelCcw).FeedsEncoder [2, 1] := by decide

/-- The sequence of spec/40_quadrature_decoder.md R144, and the shortest mirrored one. -/
theorem witness_SlowDetentGivesOneClick :
    (feeding 0#3 [0, 0, 1, 1, 1, 0, 0, 2, 2, 0, 0]).FeedsEncoder
      (List.replicate 2 0#2 ++ List.replicate (2 + 1) 1#2 ++ List.replicate (1 + 1) 0#2 ++
        List.replicate (1 + 1) 2#2 ++ List.replicate (1 + 1) 0#2) ∧
    (feeding 0#3 [2, 0, 1, 0]).FeedsEncoder
      (List.replicate 0 0#2 ++ List.replicate (0 + 1) 2#2 ++ List.replicate (0 + 1) 0#2 ++
        List.replicate (0 + 1) 1#2 ++ List.replicate (0 + 1) 0#2) := by decide

theorem witness_EveryStateConvergesToIdle :
    (feeding 2#3 [3]).port.IsTick ∧
    encInput (feeding 2#3 [3]).params (feeding 2#3 [3]).port.raw = 3#2 ∧
    (feeding 0#3 [0]).port.IsTick ∧
    encInput (feeding 0#3 [0]).params (feeding 0#3 [0]).port.raw = 0#2 ∧
    (feeding 2#3 [1, 2]).FeedsEncoder [1, 2] ∧
    seen (step (feeding 3#3 [0])) = some (0, 0xFF00, 1, false, false) := by decide

theorem witness_RestDoesNotHomeTheSecondIntermediate :
    (feeding 2#3 [0, 0]).FeedsEncoder (List.replicate 2 0#2) ∧
    (feeding 5#3 [0, 0]).FeedsEncoder (List.replicate 2 0#2) ∧
    (feeding 0#3 [1, 0, 2, 0, 1, 0]).FeedsEncoder [1, 0, 2, 0, 1, 0] ∧
    (feeding 0#3 [1, 0, 0, 2, 0, 2]).FeedsEncoder [1, 0, 0, 2, 0, 2] := by decide

theorem witness_BadSamplesHealAtOnce :
    (feeding 3#3 [3, 3, 1, 0, 2, 0]).FeedsEncoder (List.replicate (1 + 1) 3#2 ++ [1, 0, 2, 0]) := by
  decide

/-- One clause each: same encoder input with another button level, and the reverse. -/
theorem witness_DecoderAndFilterDoNotInteract :
    (tick 1#3).IsTick ∧ (tick 5#3).IsTick ∧
    encInput Params.standard (tick 1#3).raw = encInput Params.standard (tick 5#3).raw ∧
    btnInput Params.standard (tick 5#3).raw = btnInput Params.standard (tick 6#3).raw := by decide

theorem witness_GuardAndTargetValues :
    Params.standard.Wf ∧ ({ Params.standard with dbN := 16 } : Params).Wf ∧
    ({ Params.standard with dbW := 1, dbN := 1 } : Params).Wf := by decide

theorem witness_SampleOperationsShiftTheHistory :
    (st 0#3 0xFF7F#16 0#2 false []).params.Wf ∧
    ∃ k < 16, (0xFF7F#16).getLsbD k = false := by decide

/-- The oldest window sample is 0, so this tick gives an edge. -/
theorem witness_EdgeLooksAtTheOldestSample :
    (pressing 0xFF7F#16 [true]).params.Wf ∧ (pressing 0xFF7F#16 [true]).GuardSet ∧
    (pressing 0xFF7F#16 [true]).port.IsTick ∧
    seen (step (pressing 0xFF7F#16 [true])) = some (0, 0xFFFF, 0, true, true) := by decide

theorem witness_LevelIsTheFullWindow :
    (pressing 0xFFFF#16 []).params.Wf ∧ (pressing 0xFFFF#16 []).GuardSet ∧
    (pressing 0xFFFF#16 []).outputs.btnStable = true ∧
    (pressing 0xFF7F#16 []).GuardSet ∧ (pressing 0xFF7F#16 []).outputs.btnStable = false := by decide

theorem witness_HistoryHoldsTheLastSamples :
    Params.standard.Wf ∧
    (State.initial Params.standard (press Params.standard 9)).FeedsButton
      (List.replicate 9 true) ∧
    (State.initial Params.standard []).FeedsButton [] := by decide

/-- A 0 sample `DB_N` samples ago, the oldest that still counts; and `DB_N - 1` samples after reset. -/
theorem witness_ShortRunsNeverReport :
    (pressing 0xFFFF#16 (false :: List.replicate 7 true)).FeedsButton
      (false :: List.replicate 7 true) ∧
    false ∈ (false :: List.replicate 7 true) ∧
    (false :: List.replicate 7 true).length ≤ Params.standard.dbN ∧
    (State.initial Params.standard (press Params.standard 7)).FeedsButton
      (List.replicate 7 true) := by decide

/-- After reset, and right after an open sample; one sample more than the window. -/
theorem witness_OneEdgePerPress :
    (0xFF00#16).getLsbD 0 = false ∧ (0xFFFE#16).getLsbD 0 = false ∧
    (pressing 0xFF00#16 (List.replicate 9 true)).FeedsButton (List.replicate 9 true) ∧
    (pressing 0xFFFE#16 (List.replicate 9 true)).FeedsButton (List.replicate 9 true) := by decide

theorem witness_HeldAndReleasedButton :
    (pressing 0xFFFF#16 [true]).params.Wf ∧ (pressing 0xFFFF#16 [true]).port.IsTick ∧
    (pressing 0xFFFF#16 [true]).outputs.btnStable = true ∧
    btnInput (pressing 0xFFFF#16 [true]).params (pressing 0xFFFF#16 [true]).port.raw = true ∧
    btnInput (pressing 0xFFFF#16 [false]).params (pressing 0xFFFF#16 [false]).port.raw = false := by
  decide

/-- Two words of spec/95_test_vectors.md section 4.2 that agree on the owned bits. -/
theorem witness_UnownedBitsAreIgnored :
    (0x0040#16).getLsbD widePos.posA = (0xDDFF#16).getLsbD widePos.posA ∧
    (0x0040#16).getLsbD widePos.posB = (0xDDFF#16).getLsbD widePos.posB ∧
    (0x0040#16).getLsbD widePos.posBtn = (0xDDFF#16).getLsbD widePos.posBtn ∧
    0x0040#16 ≠ 0xDDFF#16 := by decide

theorem witness_ResetWritesEveryRegister :
    (st 3#3 0xFF7F#16 1#2 true [edge true true 4#3]).port.rst = true := by decide

theorem witness_HoldKeepsEverything :
    (st 3#3 0xFF7F#16 1#2 true [edge false false 4#3, tick 1#3]).FeedsHolds 1 ∧
    (st 3#3 0xFF7F#16 1#2 true []).FeedsHolds 5 := by decide

theorem witness_StepKeepsRegistersLegal :
    (feeding 3#3 [0]).Legal ∧ ∃ t, step (feeding 3#3 [0]) = .next t ∧ t.encState = 0#3 :=
  ⟨by decide, _, rfl, by decide⟩

/-- From registers that are not legal at all. -/
theorem witness_OneEdgeMakesRegistersLegal :
    (st 7#3 0x0000#16 3#2 true [tick 1#3]).port.tick = true ∧
    (st 7#3 0x0000#16 3#2 true [edge true false 1#3]).port.rst = true ∧
    ¬ (st 7#3 0x0000#16 3#2 true []).Legal := by decide

theorem witness_EncoderStateHasOneOwner :
    (∃ t, run 1 (State.initial Params.standard [tick 1#3]) = .next t ∧ t.encState = 1#3) ∧
    exec .ctlHold (feeding 3#3 []) = .next (feeding 3#3 []) :=
  ⟨⟨_, rfl, by decide⟩, rfl⟩

theorem witness_HistoryHasOneOwner :
    (pressing 0xFF00#16 [true]).params.Wf ∧ (pressing 0xFF00#16 [true]).port.IsTick ∧
    (encode (.qdRsvd 0#2)).1 = .qd := by decide

end Sys2Proof.Tests
end

section
/-! SUPPORT. R45: of the raw word of an edge, the step uses the two operands alone. -/

namespace Sys2Proof.Machine

/-- R191: the tick at the head of `inputs` acts through its operands, and only the edges behind it stay
to come. -/
theorem afterTick_cons (s : State) (e : PortSample s.params.rawW)
    (rest : List (PortSample s.params.rawW)) :
    State.afterTick { s with inputs := e :: rest } =
      applySample (btnInput s.params e.raw)
        (applyEntry (decodeStep s.encState (encInput s.params e.raw)).1
          (decodeStep s.encState (encInput s.params e.raw)).2 { s with inputs := rest }) :=
  rfl

/-- R196: the step selected by the port sample at the head of `inputs`. -/
theorem step_cons (s : State) (e : PortSample s.params.rawW)
    (rest : List (PortSample s.params.rawW)) :
    step { s with inputs := e :: rest } = .next
      (if e.rst then resetRegisters { s with inputs := rest }
       else if e.tick then State.afterTick { s with inputs := e :: rest }
       else { s with inputs := rest }) := by
  rcases step_cases { s with inputs := e :: rest } with
    ⟨hrst, hs⟩ | ⟨⟨hrst, htick⟩, hs⟩ | ⟨⟨hrst, htick⟩, hs⟩
  · replace hrst : e.rst = true := hrst
    rw [hs, if_pos hrst]
    rfl
  · replace hrst : e.rst = false := hrst
    replace htick : e.tick = true := htick
    rw [hs, hrst, if_neg Bool.false_ne_true, if_pos htick]
  · replace hrst : e.rst = false := hrst
    replace htick : e.tick = false := htick
    rw [hs, hrst, htick, if_neg Bool.false_ne_true, if_neg Bool.false_ne_true]
    rfl

/-- Settles O35: the two edges select the same operation and hand it the same operands. -/
theorem unownedBitsAreIgnored : Obligations.UnownedBitsAreIgnored := by
  intro s e e' rest hrst htick hA hB hBtn
  obtain ⟨hin, hbtn⟩ := operands_congr hA hB hBtn
  have hstep : step { s with inputs := e' :: rest } = step { s with inputs := e :: rest } := by
    simp only [step_cons, afterTick_cons, hrst, htick, hin, hbtn]
  obtain ⟨t, ht, -⟩ := step_next { s with inputs := e :: rest }
  exact ⟨t, ht, hstep.trans ht⟩

end Sys2Proof.Machine
end

section
/-! SUPPORT. R145: the tick publishes exactly one event. -/

namespace Sys2Proof.Machine

/-- R191, R193: `CTL.TICK` is the decode step, then the sample step, both on the raw word at the port. -/
theorem exec_ctlTick (s : State) :
    exec .ctlTick s = .next
      (applySample (btnInput s.params s.port.raw)
        (applyEntry (decodeStep s.encState (encInput s.params s.port.raw)).1
          (decodeStep s.encState (encInput s.params s.port.raw)).2 s)) :=
  rfl

@[simp] theorem State.outputs_encEvent (s : State) : s.outputs.encEvent = s.lastEncEvent := rfl

/-- Settles O45: the tick publishes the code of the decode step's event, and no two events share a
code. -/
theorem tickReturnsExactlyOneEvent : Obligations.TickReturnsExactlyOneEvent := by
  intro s
  refine ⟨_, exec_ctlTick s, (decodeStep s.encState (encInput s.params s.port.raw)).2, ?_, ?_⟩
  · simp
  · intro ev hev
    exact (EncEvent.code_injective (by simpa using hev)).symm

end Sys2Proof.Machine
end

section
/-! SUPPORT. The keys: decoding and encoding are inverse to each other, and what decodes is exactly a
key (R65, R66, R69). -/

namespace Sys2Proof

/-- The encoder writes back the key that was decoded, the bits a row leaves free included (R65, R66). -/
theorem encode_decodeKey (f : Format) {b : Byte} (hb : b.toNat < 2 ^ f.width) :
    encode (decodeKey f b) = (f, [b]) := by
  revert b
  cases f
  case qd => decide
  case db => decide
  case ctl => decide

/-- The decoder reads back what the encoder writes, for every operation (R65, R66). -/
theorem decode_encode (i : Instr) : decode (encode i).1 (encode i).2 = .ok i := by
  cases i with
  | qdRsvd input => exact Laws.EncodingRoundTrip.qdRsvd input
  | ctlReset tick => exact Laws.EncodingRoundTrip.ctlReset tick
  | _ => rfl

/-- Settles O1: a row's encoding decodes to it, and what decodes is one byte below the key bound, which
the encoder writes back. -/
theorem decodeAndEncodeAgree : Obligations.DecodeAndEncodeAgree := by
  refine ⟨decode_encode, fun f bytes i h => ?_⟩
  obtain ⟨b, rfl, hb, rfl⟩ := decode_eq_ok h
  exact encode_decodeKey f hb

/-- Settles O2: each written key evaluates to the operation of its row. -/
theorem writtenKeysDecode : Obligations.WrittenKeysDecode := by
  unfold Obligations.WrittenKeysDecode
  decide

/-- A byte within the key's width is an operation. -/
theorem decode_of_lt {f : Format} {b : Byte} (hb : b.toNat < 2 ^ f.width) :
    decode f [b] = .ok (decodeKey f b) := by
  rw [decode_singleton, if_pos hb]

/-- A byte with a bit set above the key is rejected by its own name. -/
theorem decode_of_le {f : Format} {b : Byte} (hb : 2 ^ f.width ≤ b.toNat) :
    decode f [b] = .error .bitsAboveKey := by
  rw [decode_singleton, if_neg (Nat.not_lt.mpr hb)]

/-- Settles O3: the bound of each format is the number of values of its key. -/
theorem exactlyTheKeysDecode : Obligations.ExactlyTheKeysDecode := by
  intro f
  refine ⟨rfl, fun b hb => ⟨decodeKey f b, decode_of_lt ?_⟩, fun b hb => decode_of_le ?_,
    fun _ _ _ => rfl⟩
  · cases f <;> exact hb
  · cases f <;> exact hb

end Sys2Proof
end

section
/-! SUPPORT. The edge and what every run keeps: the operation an edge selects, reset, hold, and legal
registers (R35 to R37, R196 to R201). -/

namespace Sys2Proof.Machine

/-! ## The selected operation -/

/-- The operation of the key `rst, tick` (R66). -/
theorem decode_ctlKey {w : Nat} (e : PortSample w) :
    decode .ctl [BitVec.ofNat 8 (2 * e.rst.toNat + e.tick.toNat)] = .ok (decodeCtl (ctlKey e)) := by
  unfold ctlKey
  generalize e.rst = rst, e.tick = tick
  revert rst tick
  decide

/-- Settles O4: the byte of `rst, tick` decodes to the operation the step runs. -/
theorem stepRunsTheSelectedOperation : Obligations.StepRunsTheSelectedOperation := by
  intro s
  refine ⟨fun e rest h => ?_, fun h => ?_, fun i hi => ?_⟩
  · simp [State.port, h]
  · simp [State.port, h]
  · obtain rfl : decodeCtl (ctlKey s.port) = i := by simpa only [decode_ctlKey, Except.ok.injEq] using hi
    refine ⟨fun t ht => ?_, fun r hr => ?_, fun r hr => ?_⟩
    · rw [step, ht]
      rfl
    · rw [step, hr]
      rfl
    · rw [step, hr]
      rfl

/-! ## Reset and hold -/

/-- Settles O36: the operation is the write of the four reset values, and an edge with `rst` high runs
it whatever `tick` is. -/
theorem resetWritesEveryRegister : Obligations.ResetWritesEveryRegister :=
  ⟨fun _ _ => rfl, fun _ hrst => step_of_rst hrst⟩

/-- Settles O37: the guard mask of the default parameters is 0xFF00; every other entry is read off. -/
theorem resetValues : Obligations.ResetValues := by
  unfold Obligations.ResetValues
  decide

/-- An edge at which the environment holds; the edges behind it are holds too. -/
theorem feedsHolds_succ {s : State} {n : Nat} (h : s.FeedsHolds (n + 1)) :
    (s.port.rst = false ∧ s.port.tick = false) ∧ s.passEdge.FeedsHolds n := by
  unfold State.FeedsHolds at h
  show _ ∧ ∀ e ∈ s.inputs.tail.take n, e.rst = false ∧ e.tick = false
  unfold State.port
  cases hi : s.inputs with
  | nil => simp
  | cons e rest =>
    rw [hi, List.take_succ_cons, List.forall_mem_cons] at h
    exact h

/-- Settles O38, by induction on the number of edges. -/
theorem holdKeepsEverything : Obligations.HoldKeepsEverything := by
  refine ⟨fun _ => rfl, fun n => ?_⟩
  induction n with
  | zero => exact fun _ _ => rfl
  | succ n ih =>
    intro s h
    obtain ⟨hhold, hrest⟩ := feedsHolds_succ h
    rw [run_succ_of_step n (step_of_hold hhold), ih _ hrest, ← List.drop_tail]
    rfl

/-! ## Runs -/

/-- Settles O39, by induction on the number of edges. -/
theorem everyRunGoesOn : Obligations.EveryRunGoesOn := by
  intro n
  induction n with
  | zero => exact fun s => ⟨s, rfl, rfl, rfl⟩
  | succ n ih =>
    intro s
    obtain ⟨u, hstep, hp, hlen⟩ := step_next s
    obtain ⟨t, hrun, hp', hlen'⟩ := ih u
    exact ⟨t, (run_succ_of_step n hstep).trans hrun, hp'.trans hp, by omega⟩

/-- What every edge keeps, every run keeps. -/
theorem run_keeps {P : State → Prop} (hP : ∀ s t, P s → step s = .next t → P t) {n : Nat} :
    ∀ {s t : State}, P s → run n s = .next t → P t := by
  induction n with
  | zero =>
    intro s t hs hrun
    obtain rfl : s = t := by simpa using hrun
    exact hs
  | succ n ih =>
    intro s t hs hrun
    obtain ⟨u, hstep, -⟩ := step_next s
    exact ih (hP s u hs hstep) ((run_succ_of_step n hstep).symm.trans hrun)

/-! ## Legal registers -/

/-- Settles O40: a reset and a tick make the registers legal, and a hold writes none of them. -/
theorem stepKeepsRegistersLegal : Obligations.StepKeepsRegistersLegal := by
  intro s t hs ht
  rcases step_cases s with ⟨-, h⟩ | ⟨-, h⟩ | ⟨-, h⟩ <;> rw [h, Host.Outcome.next.injEq] at ht <;>
    subst ht
  · exact legal_resetRegisters s
  · exact legal_afterTick s
  · exact hs

/-- The registers after reset are those a reset writes. -/
theorem legal_initial (p : Params) (ins : List (PortSample p.rawW)) : (State.initial p ins).Legal :=
  legal_resetRegisters (State.initial p ins)

/-- Settles O41: the default parameters are one case of the fact about all of them. -/
theorem resetRegistersAreLegal : Obligations.ResetRegistersAreLegal :=
  ⟨legal_initial _ _, legal_initial⟩

/-- Settles O42: such an edge is a reset or a tick. -/
theorem oneEdgeMakesRegistersLegal : Obligations.OneEdgeMakesRegistersLegal := by
  intro s hedge
  rcases step_cases s with ⟨-, h⟩ | ⟨-, h⟩ | ⟨⟨hrst, htick⟩, -⟩
  · exact ⟨_, h, legal_resetRegisters s⟩
  · exact ⟨_, h, legal_afterTick s⟩
  · simp [hrst, htick] at hedge

/-- In a run from reset the state code is one of the seven. -/
theorem encState_le_six_of_run {p : Params} {ins : List (PortSample p.rawW)} {n : Nat} {t : State}
    (h : run n (State.initial p ins) = .next t) : t.encState.toNat ≤ 6 := by
  obtain ⟨-, hcode, -⟩ := run_keeps stepKeepsRegistersLegal (legal_initial p ins) h
  exact hcode

end Sys2Proof.Machine
end

section
/-! SUPPORT. The table of the decoder as the operations give it: one decode and one sample operation
per tick, the 32 keys, and the rows by their rules (R101 to R131). -/

namespace Sys2Proof.Machine

/-! ## The operations of a tick -/

/-- The operation of the key `btn` (R66). -/
theorem decode_dbKey (btn : Bool) :
    decode .db [BitVec.ofNat 8 btn.toNat] = .ok (decodeDb (dbKey btn)) := by
  revert btn
  decide

/-- A row of format DB is the sample step on the level of its key (R161, R162). -/
theorem exec_decodeDb (btn : Bool) (s : State) :
    exec (decodeDb (dbKey btn)) s = .next (applySample btn s) := by
  cases btn <;> rfl

/-- R193: a decode operation and a sample operation write disjoint registers, so their order does not
matter. -/
theorem applyEntry_applySample (st : EncState) (ev : EncEvent) (btn : Bool) (s : State) :
    applyEntry st ev (applySample btn s) = applySample btn (applyEntry st ev s) := rfl

/-- Settles O5: the two operations are the two component steps of the tick, and these commute. -/
theorem tickIsOneDecodeAndOneSample : Obligations.TickIsOneDecodeAndOneSample := by
  intro s qd db hqd hdb
  rw [decode_qdKey, Except.ok.injEq] at hqd
  rw [decode_dbKey, Except.ok.injEq] at hdb
  subst hqd hdb
  refine ⟨_, exec_ctlTick s, ⟨_, exec_decodeQd _ _ s, exec_decodeDb _ _⟩,
    ⟨_, exec_decodeDb _ s, ?_⟩⟩
  rw [exec_decodeQd, applyEntry_applySample]

/-! ## The 32 keys -/

/-- A 5-bit key is its state code above its input (R65). -/
theorem qdKey_of_parts (key : BitVec 5) :
    qdKey (key.extractLsb' 2 3) (key.extractLsb' 0 2) = key := by
  revert key
  decide

/-- Every 5-bit key is the key of a state code and an input (R65). -/
theorem exists_qdKey (key : BitVec 5) : ∃ c input, key = qdKey c input :=
  ⟨_, _, (qdKey_of_parts key).symm⟩

/-- Every 5-bit key is an operation (R42). -/
theorem decode_qd_key (key : BitVec 5) :
    decode .qd [BitVec.ofNat 8 key.toNat] = .ok (decodeQd key) := by
  revert key
  decide

/-- An operation of format QD is the operation of a state code and an input. -/
theorem exists_qdKey_of_format_qd {i : Instr} (h : (encode i).1 = .qd) :
    ∃ c input, i = decodeQd (qdKey c input) := by
  have hdec := decode_encode i
  rw [h] at hdec
  obtain ⟨b, -, -, rfl⟩ := decode_eq_ok hdec
  obtain ⟨c, input, hkey⟩ := exists_qdKey (b.setWidth 5)
  exact ⟨c, input, congrArg decodeQd hkey⟩

/-- Settles O13: each key's operation writes the code of a named state, and the legal registers of a
run from reset exclude code 7. -/
theorem tableIsTotal : Obligations.TableIsTotal := by
  refine ⟨fun key => ⟨_, decode_qd_key key, fun s => ?_⟩, fun p ins n t hrun h7 => ?_⟩
  · obtain ⟨c, input, rfl⟩ := exists_qdKey key
    exact ⟨_, exec_decodeQd c input s, EncState.code_le_six _⟩
  · have hle := encState_le_six_of_run hrun
    rw [h7] at hle
    exact absurd hle (by decide)

/-- R102: the two clicks by their codes. -/
theorem decodeStep_event_code (c : StateCode) (input : EncInput) :
    (decodeStep c input).2.code =
      if c = 3#3 ∧ input = 0#2 then 1#2 else if c = 6#3 ∧ input = 0#2 then 2#2 else 0#2 := by
  rw [decodeStep_event, apply_ite EncEvent.code, apply_ite EncEvent.code]
  rfl

/-- R150: the keys whose event is a click. -/
theorem decodeStep_event_code_ne_zero_iff (c : StateCode) (input : EncInput) :
    (decodeStep c input).2.code ≠ 0#2 ↔ qdKey c input = 12#5 ∨ qdKey c input = 24#5 := by
  rw [decodeStep_event_code]
  revert c input
  decide

/-- Settles O16: a row publishes the event of its key. -/
theorem clickComesFromTwoKeys : Obligations.ClickComesFromTwoKeys := by
  intro key
  obtain ⟨c, input, rfl⟩ := exists_qdKey key
  exact ⟨_, decode_qd_key _, fun s =>
    ⟨_, exec_decodeQd c input s, decodeStep_event_code_ne_zero_iff c input⟩⟩

/-- Settles O15: input 3 gives `Idle` and no event for every state code, so at the row and at the
tick. -/
theorem reservedInputIsLegal : Obligations.ReservedInputIsLegal := by
  refine ⟨fun code => ⟨_, decode_qdKey code 3#2, fun s => ?_⟩, fun s htick hin => ?_⟩
  · rw [exec_decodeQd, decodeStep_three]
    rfl
  · refine ⟨_, step_of_tick htick, ?_, ?_⟩
    · rw [afterTick_encState, hin, decodeStep_three]
      rfl
    · rw [afterTick_lastEncEvent, hin, decodeStep_three]
      rfl

/-! ## A loaded key -/

/-- The table word of a 5-bit key is its operation (log 4). -/
theorem decodeTableWord_key (key : BitVec 5) :
    decodeTableWord 8 key.toNat = some (decodeQd key) := by
  revert key
  decide

/-- The operation of a 5-bit key is encoded as that key in one byte. -/
theorem encode_decodeQd (key : BitVec 5) :
    encode (decodeQd key) = (.qd, [key.setWidth 8]) := by
  have hlt : (key.setWidth 8).toNat < 2 ^ Format.qd.width := by
    rw [BitVec.toNat_setWidth_of_le (by decide)]
    exact key.isLt
  have hkey : (key.setWidth 8).setWidth 5 = key := BitVec.setWidth_setWidth_of_le key (by decide)
  have h := encode_decodeKey .qd hlt
  rwa [decodeKey, hkey] at h

/-- The loaded state: the key's state code in `ENC_STATE`, its input on the lines of a tick (log 5). -/
theorem withFetchWord_qdKey (s : State) (c : StateCode) (input : EncInput) :
    s.withFetchWord 8 (qdKey c input).toNat =
      { s with encState := c, inputs := tickSample s.params input false :: s.inputs } := by
  have hc : ((qdKey c input).setWidth 8).extractLsb' 2 3 = c := by
    revert c input
    decide
  have hin : ((qdKey c input).setWidth 8).extractLsb' 0 2 = input := by
    revert c input
    decide
  simp only [State.withFetchWord, decodeTableWord_key, State.withOperation, encode_decodeQd,
    State.withKey, hc, hin]

/-- Settles O6: the loaded tick decodes the key's own state code and input. -/
theorem loadedKeyRuns : Obligations.LoadedKeyRuns := by
  intro s key hp
  obtain ⟨c, input, rfl⟩ := exists_qdKey key
  have hin : encInput s.params (tickSample s.params input false).raw = input :=
    (operands_rawOf hp input false).1
  rw [withFetchWord_qdKey]
  exact ⟨_, _, _, decodeTableWord_key _, exec_decodeQd c input s, step_of_tick ⟨rfl, rfl⟩,
    congrArg (fun i => (decodeStep c i).1.code) hin, congrArg (fun i => (decodeStep c i).2.code) hin⟩

/-! ## The numeric table -/

/-- R101, R131: the next state by the numbers of the table. -/
theorem decodeStep_code_toNat (c : StateCode) (input : EncInput) :
    (decodeStep c input).1.code.toNat =
      (([[0, 1, 4, 0], [2, 1, 0, 0], [2, 1, 3, 0], [0, 0, 3, 0],
         [5, 0, 4, 0], [5, 6, 4, 0], [0, 6, 0, 0]] : List (List Nat)).getD
        c.toNat []).getD input.toNat 0 := by
  revert c input
  decide

/-- R102: the event by its number. -/
theorem decodeStep_event_toNat (c : StateCode) (input : EncInput) :
    (decodeStep c input).2.code.toNat =
      if c.toNat = 3 ∧ input.toNat = 0 then 1
      else if c.toNat = 6 ∧ input.toNat = 0 then 2 else 0 := by
  rw [decodeStep_event_code]
  revert c input
  decide

/-- R164: the edge is a history of ones after an update of one that was not. -/
theorem pressEdge_iff (p : Params) (h h' : BitVec p.dbW) :
    pressEdge p h h' = true ↔
      (∀ k < p.dbW, h'.getLsbD k = true) ∧ ¬ ∀ k < p.dbW, h.getLsbD k = true := by
  rw [pressEdge_eq, Bool.and_eq_true, Bool.not_eq_true', ← Bool.not_eq_true, stableLevel_iff,
    stableLevel_iff]

/-- Settles O14: the tick writes the four results of the two component steps. -/
theorem tickFollowsTheNumericTable : Obligations.TickFollowsTheNumericTable := by
  intro s
  refine ⟨_, _, _, _, exec_ctlTick s, decodeStep_code_toNat _ _, decodeStep_event_toNat _ _,
    fun k hk => ?_, pressEdge_iff _ _ _⟩
  have hbit := sampleStep_getLsbD s.params s.dbHist (btnInput s.params s.port.raw) k
  rwa [decide_eq_true hk, Bool.true_and] at hbit

/-- R147: the ways into each intermediate state, by the table. -/
theorem decodeStep_waysIn (c : StateCode) (input : EncInput) :
    ((decodeStep c input).1.code = 1#3 → input = 1#2 ∧ (c = 0#3 ∨ c = 2#3 ∨ c = 1#3)) ∧
    ((decodeStep c input).1.code = 2#3 → input = 0#2 ∧ (c = 1#3 ∨ c = 2#3)) ∧
    ((decodeStep c input).1.code = 3#3 → input = 2#2 ∧ (c = 2#3 ∨ c = 3#3)) ∧
    ((decodeStep c input).1.code = 4#3 → input = 2#2 ∧ (c = 0#3 ∨ c = 5#3 ∨ c = 4#3)) ∧
    ((decodeStep c input).1.code = 5#3 → input = 0#2 ∧ (c = 4#3 ∨ c = 5#3)) ∧
    ((decodeStep c input).1.code = 6#3 → input = 1#2 ∧ (c = 5#3 ∨ c = 6#3)) := by
  revert c input
  decide

/-- Settles O17: the tick's next state is the table's entry. -/
theorem intermediatesHaveTheirOnlyWaysIn : Obligations.IntermediatesHaveTheirOnlyWaysIn :=
  fun _ htick => ⟨_, step_of_tick htick, decodeStep_waysIn _ _⟩

end Sys2Proof.Machine
end

section
/-! SUPPORT. Fed encoder sequences: the entry rules with their example sequences, the named sequences,
and what repeated samples do (R103 to R131, R140 to R149, R212, R213). -/

namespace Sys2Proof.Machine

/-! ## Codes and events of a fed sequence -/

@[simp] theorem encTrace_length (c : StateCode) (ins : List EncInput) :
    (encTrace c ins).length = ins.length := by
  induction ins generalizing c with
  | nil => rfl
  | cons i ins ih => simp [encTrace, ih]

/-- The codes after the ticks of a fed sequence. -/
theorem statesAfter_encState {s : State} {ins : List EncInput} (h : s.FeedsEncoder ins) :
    (statesAfter ins.length s).map (fun t => t.encState) = (encTrace s.encState ins).map Prod.fst := by
  rw [← statesAfter_encoder ins s h, List.map_map]
  rfl

/-- The events of the ticks of a fed sequence. -/
theorem statesAfter_lastEncEvent {s : State} {ins : List EncInput} (h : s.FeedsEncoder ins) :
    (statesAfter ins.length s).map (fun t => t.lastEncEvent) =
      (encTrace s.encState ins).map Prod.snd := by
  rw [← statesAfter_encoder ins s h, List.map_map]
  rfl

/-- A trace without events, as the list of events it gives. -/
theorem encTrace_events_of_quiet {c : StateCode} {ins : List EncInput}
    (h : ∀ x ∈ encTrace c ins, x.2 = 0#2) :
    (encTrace c ins).map Prod.snd = List.replicate ins.length 0#2 := by
  rw [List.eq_replicate_iff, List.length_map, encTrace_length, List.forall_mem_map]
  exact ⟨rfl, h⟩

/-- A fed sequence whose trace has no event publishes none. -/
theorem quiet_of_encTrace {s : State} {ins : List EncInput} (h : s.FeedsEncoder ins)
    (hquiet : ∀ x ∈ encTrace s.encState ins, x.2 = 0#2) :
    ∀ t ∈ statesAfter ins.length s, t.lastEncEvent = 0#2 := by
  rw [← statesAfter_encoder ins s h, List.forall_mem_map] at hquiet
  exact hquiet

/-- From `Idle`, a fed sequence gives the codes and events of its trace. -/
theorem idleRunGives_encTrace (ins : List EncInput) :
    IdleRunGives ins ((encTrace 0#3 ins).map Prod.fst) ((encTrace 0#3 ins).map Prod.snd) := by
  intro s hs h
  rw [← hs]
  exact ⟨statesAfter_encState h, statesAfter_lastEncEvent h⟩

/-! ## The entry rules -/

/-- An entry rule: the operation of a state code and an input has the table's entry as its effect, and
a sequence that reaches that code from `Idle` without an event, then that input, is an example. -/
theorem entryHolds_of_front (front : List EncInput) (input : EncInput)
    (hquiet : ∀ x ∈ encTrace 0#3 front, x.2 = 0#2) :
    EntryHolds (decodeQd (qdKey (encFinal 0#3 front) input))
      (4 * (encFinal 0#3 front).toNat + input.toNat)
      (decodeStep (encFinal 0#3 front) input).1.code
      (decodeStep (encFinal 0#3 front) input).2.code (front ++ [input]) := by
  refine ⟨decode_qdKey _ input, exec_decodeQd _ input, fun s hs hfeeds => ⟨?_, ?_⟩⟩
  · obtain ⟨t, hrun, ht⟩ := run_encoder _ s hfeeds
    refine ⟨t, hrun, ht.trans ?_⟩
    rw [hs, encFinal_append]
    rfl
  · rw [statesAfter_lastEncEvent hfeeds, hs, encTrace_append, List.map_append,
      encTrace_events_of_quiet hquiet, List.length_append, List.length_singleton,
      Nat.add_sub_cancel]
    rfl

/-- Settles O7: the key of each code and input 3. -/
theorem inputThreeEntries : Obligations.InputThreeEntries :=
  ⟨entryHolds_of_front [] 3#2 (by decide), entryHolds_of_front [1] 3#2 (by decide),
    entryHolds_of_front [1, 0] 3#2 (by decide), entryHolds_of_front [1, 0, 2] 3#2 (by decide),
    entryHolds_of_front [2] 3#2 (by decide), entryHolds_of_front [2, 0] 3#2 (by decide),
    entryHolds_of_front [2, 0, 1] 3#2 (by decide)⟩

/-- R115, R127: the rows that publish a click. -/
theorem decodeQd_eq_click_iff (c : StateCode) (input : EncInput) :
    ((decodeStep c input).2.code = 1#2 ↔ decodeQd (qdKey c input) = .qdCwC0) ∧
      ((decodeStep c input).2.code = 2#2 ↔ decodeQd (qdKey c input) = .qdCcwC0) := by
  rw [decodeStep_event_code]
  revert c input
  decide

/-- Settles O8: the steps of the two detents after the first, and the two rows that click. -/
theorem detentPathEntries : Obligations.DetentPathEntries := by
  refine ⟨entryHolds_of_front [1] 0#2 (by decide), entryHolds_of_front [1, 0] 2#2 (by decide),
    entryHolds_of_front [1, 0, 2] 0#2 (by decide), entryHolds_of_front [2] 0#2 (by decide),
    entryHolds_of_front [2, 0] 1#2 (by decide), entryHolds_of_front [2, 0, 1] 0#2 (by decide),
    fun i hi s t ht => ?_⟩
  obtain ⟨c, input, rfl⟩ := exists_qdKey_of_format_qd hi
  obtain rfl : _ = t := Host.Outcome.next.inj ((exec_decodeQd c input s).symm.trans ht)
  exact decodeQd_eq_click_iff c input

/-- Settles O9: the two keys of `Idle` that leave it. -/
theorem firstStepEntries : Obligations.FirstStepEntries :=
  ⟨entryHolds_of_front [] 1#2 (by decide), entryHolds_of_front [] 2#2 (by decide)⟩

/-- Settles O10: the key of each code and the input that holds it. -/
theorem holdEntries : Obligations.HoldEntries :=
  ⟨entryHolds_of_front [0, 0] 0#2 (by decide), entryHolds_of_front [1, 1] 1#2 (by decide),
    entryHolds_of_front [1, 0, 0] 0#2 (by decide), entryHolds_of_front [1, 0, 2] 2#2 (by decide),
    entryHolds_of_front [2] 2#2 (by decide), entryHolds_of_front [2, 0] 0#2 (by decide),
    entryHolds_of_front [2, 0, 1] 1#2 (by decide)⟩

/-- Settles O11: walk-back, cancellation and skip, each with its mirror. -/
theorem backwardAndSkipEntries : Obligations.BackwardAndSkipEntries :=
  ⟨entryHolds_of_front [1, 0] 1#2 (by decide), entryHolds_of_front [2, 0] 2#2 (by decide),
    entryHolds_of_front [1] 2#2 (by decide), entryHolds_of_front [2] 1#2 (by decide),
    entryHolds_of_front [1, 0, 2] 1#2 (by decide), entryHolds_of_front [2, 0, 1] 2#2 (by decide)⟩

/-- The keys of state code 7 are the reserved row (R131). -/
theorem decodeQd_reserved (input : EncInput) : decodeQd (qdKey 7#3 input) = .qdRsvd input := by
  revert input
  decide

/-- Settles O12: the reserved row is the decode step of code 7, which the tick takes too. -/
theorem reservedCodeGoesToIdle : Obligations.ReservedCodeGoesToIdle := by
  refine ⟨fun input => ⟨?_, fun _ => rfl⟩, fun s hs htick => ⟨_, step_of_tick htick, ?_, ?_⟩⟩
  · rw [← decodeQd_reserved]
    exact decode_qdKey 7#3 input
  · rw [afterTick_encState, hs, decodeStep_reserved]
    rfl
  · rw [afterTick_lastEncEvent, hs, decodeStep_reserved]
    rfl

/-! ## Named sequences -/

/-- Settles O20: the trace of each detent from `Idle`. -/
theorem cleanDetentGivesOneClick : Obligations.CleanDetentGivesOneClick :=
  ⟨idleRunGives_encTrace [1, 0, 2, 0], idleRunGives_encTrace [2, 0, 1, 0]⟩

/-- Settles O21: the trace of each cancelled first step from `Idle`. -/
theorem oppositeFirstStepCancels : Obligations.OppositeFirstStepCancels :=
  ⟨idleRunGives_encTrace [1, 2], idleRunGives_encTrace [2, 1]⟩

/-! ## Repeated samples -/

/-- The table's entry by its codes: the state code and the event of one tick (R101, R102, R131). -/
abbrev tableEntry (c : StateCode) (input : EncInput) : StateCode × EventCode :=
  ((decodeStep c input).1.code, (decodeStep c input).2.code)

theorem encTrace_cons (c : StateCode) (i : EncInput) (ins : List EncInput) :
    encTrace c (i :: ins) = tableEntry c i :: encTrace (tableEntry c i).1 ins := rfl

theorem encFinal_cons (c : StateCode) (i : EncInput) (ins : List EncInput) :
    encFinal c (i :: ins) = encFinal (tableEntry c i).1 ins := rfl

/-- An input that holds a state code holds it however often it is repeated. -/
theorem encFinal_replicate {c : StateCode} {input : EncInput} (hold : tableEntry c input = (c, 0#2))
    (n : Nat) : encFinal c (List.replicate n input) = c := by
  induction n with
  | zero => rfl
  | succ n ih => rw [List.replicate_succ, encFinal_cons, hold, ih]

theorem encTrace_replicate {c : StateCode} {input : EncInput} (hold : tableEntry c input = (c, 0#2))
    (n : Nat) : encTrace c (List.replicate n input) = List.replicate n (c, 0#2) := by
  induction n with
  | zero => rfl
  | succ n ih => rw [List.replicate_succ, encTrace_cons, hold, ih, List.replicate_succ]

/-- A sample once and then repeated: the first tick has the table's entry, the others hold. -/
theorem encFinal_replicate_succ {c d : StateCode} {ev : EventCode} {input : EncInput}
    (enter : tableEntry c input = (d, ev)) (hold : tableEntry d input = (d, 0#2)) (n : Nat) :
    encFinal c (List.replicate (n + 1) input) = d := by
  rw [List.replicate_succ, encFinal_cons, enter, encFinal_replicate hold]

theorem encTrace_replicate_succ {c d : StateCode} {ev : EventCode} {input : EncInput}
    (enter : tableEntry c input = (d, ev)) (hold : tableEntry d input = (d, 0#2)) (n : Nat) :
    encTrace c (List.replicate (n + 1) input) = (d, ev) :: List.replicate n (d, 0#2) := by
  rw [List.replicate_succ, encTrace_cons, enter, encTrace_replicate hold]

/-- Settles O24: rest holds the second intermediate states, and the traces of the two sequences. -/
theorem restDoesNotHomeTheSecondIntermediate : Obligations.RestDoesNotHomeTheSecondIntermediate := by
  refine ⟨fun n s hs hfeeds => ?_, idleRunGives_encTrace [1, 0, 2, 0, 1, 0],
    idleRunGives_encTrace [1, 0, 0, 2, 0, 2]⟩
  have hold : tableEntry s.encState 0#2 = (s.encState, 0#2) := by
    rcases hs with hs | hs <;> rw [hs] <;> rfl
  obtain ⟨t, hrun, ht⟩ := run_encoder _ s hfeeds
  have hquiet := quiet_of_encTrace hfeeds fun x hx => by
    rw [encTrace_replicate hold] at hx
    rw [List.eq_of_mem_replicate hx]
  rw [List.length_replicate] at hrun hquiet
  exact ⟨t, hrun, ht.trans (encFinal_replicate hold n), hquiet⟩

/-- Settles O25: input 3 reaches and holds `Idle` without an event, and the detent follows from there. -/
theorem badSamplesHealAtOnce : Obligations.BadSamplesHealAtOnce := by
  intro s n hfeeds
  have enter : tableEntry s.encState 3#2 = (0#3, 0#2) := by
    rw [tableEntry, decodeStep_three]
    rfl
  have htrace : encTrace s.encState (List.replicate (n + 1) 3#2 ++ [1, 0, 2, 0]) =
      List.replicate (n + 1) (0#3, 0#2) ++ encTrace 0#3 [1, 0, 2, 0] := by
    rw [encTrace_append, encTrace_replicate_succ enter rfl, encFinal_replicate_succ enter rfl,
      List.replicate_succ]
  have hcodes := statesAfter_encState hfeeds
  have hevents := statesAfter_lastEncEvent hfeeds
  rw [htrace, List.map_append, List.map_replicate, List.length_append,
    List.length_replicate] at hcodes hevents
  exact ⟨hcodes, hevents⟩

/-! ## A slow detent -/

/-- The cells of the table that a detent passes and holds: from `Idle` through three intermediate codes
and back with the click (R101, R102). -/
structure DetentPath (first third : EncInput) (click : EventCode) (a b c : StateCode) : Prop where
  enterA : tableEntry 0#3 first = (a, 0#2)
  holdA : tableEntry a first = (a, 0#2)
  enterB : tableEntry a 0#2 = (b, 0#2)
  holdB : tableEntry b 0#2 = (b, 0#2)
  enterC : tableEntry b third = (c, 0#2)
  holdC : tableEntry c third = (c, 0#2)
  clickC : tableEntry c 0#2 = (0#3, click)

theorem detentPath_cw : DetentPath 1#2 2#2 1#2 1#3 2#3 3#3 :=
  ⟨rfl, rfl, rfl, rfl, rfl, rfl, rfl⟩

theorem detentPath_ccw : DetentPath 2#2 1#2 2#2 4#3 5#3 6#3 :=
  ⟨rfl, rfl, rfl, rfl, rfl, rfl, rfl⟩

/-- The inputs of a detent with every sample repeated (R144). -/
abbrev slowDetent (first third : EncInput) (k l m n o : Nat) : List EncInput :=
  List.replicate k 0#2 ++ List.replicate (l + 1) first ++ List.replicate (m + 1) 0#2 ++
    List.replicate (n + 1) third ++ List.replicate (o + 1) 0#2

section SlowDetent
variable {first third : EncInput} {click : EventCode} {a b c : StateCode}

theorem length_slowDetent (k l m n o : Nat) :
    (slowDetent first third k l m n o).length = k + l + m + n + o + 4 := by
  simp only [List.length_append, List.length_replicate]
  omega

theorem encFinal_slowDetent (h : DetentPath first third click a b c) (k l m n o : Nat) :
    encFinal 0#3 (slowDetent first third k l m n o) = 0#3 := by
  have hIdle : tableEntry 0#3 0#2 = (0#3, 0#2) := rfl
  simp only [encFinal_append, encFinal_replicate hIdle, encFinal_replicate_succ h.enterA h.holdA,
    encFinal_replicate_succ h.enterB h.holdB, encFinal_replicate_succ h.enterC h.holdC,
    encFinal_replicate_succ h.clickC hIdle]

/-- The one click stands at the first rest sample after the third pattern. -/
theorem encTrace_slowDetent_events (h : DetentPath first third click a b c) (k l m n o : Nat) :
    (encTrace 0#3 (slowDetent first third k l m n o)).map Prod.snd =
      List.replicate (k + l + m + n + 3) 0#2 ++ click :: List.replicate o 0#2 := by
  have hIdle : tableEntry 0#3 0#2 = (0#3, 0#2) := rfl
  have hlen : k + l + m + n + 3 = k + (l + 1) + (m + 1) + (n + 1) := by omega
  simp only [encFinal_append, encFinal_replicate hIdle, encFinal_replicate_succ h.enterA h.holdA,
    encFinal_replicate_succ h.enterB h.holdB, encFinal_replicate_succ h.enterC h.holdC,
    encTrace_append, encTrace_replicate hIdle, encTrace_replicate_succ h.enterA h.holdA,
    encTrace_replicate_succ h.enterB h.holdB, encTrace_replicate_succ h.enterC h.holdC,
    encTrace_replicate_succ h.clickC hIdle, List.map_append, List.map_cons, List.map_replicate,
    ← List.replicate_succ, List.replicate_append_replicate, hlen]

end SlowDetent

/-- Settles O22: a slow detent passes the same cells as a clean one, and holds in between. -/
theorem slowDetentGivesOneClick : Obligations.SlowDetentGivesOneClick := by
  intro s first third click k l m n o hdir hs hfeeds
  obtain ⟨a, b, c, hpath⟩ : ∃ a b c, DetentPath first third click a b c := by
    rcases hdir with h | h
    · cases h
      exact ⟨_, _, _, detentPath_cw⟩
    · cases h
      exact ⟨_, _, _, detentPath_ccw⟩
  obtain ⟨t, hrun, ht⟩ := run_encoder _ s hfeeds
  have hevents := statesAfter_lastEncEvent hfeeds
  rw [hs, encFinal_slowDetent hpath] at ht
  rw [hs, encTrace_slowDetent_events hpath] at hevents
  rw [length_slowDetent] at hrun hevents
  exact ⟨⟨t, hrun, ht⟩, hevents⟩

/-! ## The way home -/

/-- Input 3 leads to `Idle`, rest holds it, and a click ends in it. -/
theorem decodeStep_converges (c : StateCode) (input : EncInput) :
    (input = 3#2 → (decodeStep c input).1.code = 0#3) ∧
      (c = 0#3 → input = 0#2 → (decodeStep c input).1.code = 0#3) ∧
      ((decodeStep c input).2.code ≠ 0#2 → (decodeStep c input).1.code = 0#3) := by
  revert c input
  decide

/-- From each state code, inputs that reach `Idle` without an event: a first step is cancelled, a second
intermediate walks back first, a third one skips (decisions D11 to D13). -/
def wayHome (c : StateCode) : List EncInput :=
  match c.toNat with
  | 1 => [2]
  | 2 => [1, 2]
  | 3 => [1]
  | 4 => [1]
  | 5 => [2, 1]
  | 6 => [2]
  | _ => [0]

theorem wayHome_spec (c : StateCode) :
    1 ≤ (wayHome c).length ∧ (wayHome c).length ≤ 3 ∧ 3#2 ∉ wayHome c ∧
      encFinal c (wayHome c) = 0#3 ∧ ∀ x ∈ encTrace c (wayHome c), x.2 = 0#2 := by
  revert c
  decide

/-- Settles O23: the cells that lead to `Idle`, and a way home from every code. -/
theorem everyStateConvergesToIdle : Obligations.EveryStateConvergesToIdle := by
  refine ⟨fun s htick => ⟨_, step_of_tick htick, decodeStep_converges _ _⟩, fun code => ?_⟩
  obtain ⟨hpos, hlen, hthree, hfinal, hquiet⟩ := wayHome_spec code
  refine ⟨wayHome code, hpos, hlen, hthree, ?_⟩
  rintro s rfl hfeeds
  obtain ⟨t, hrun, ht⟩ := run_encoder _ s hfeeds
  exact ⟨⟨t, hrun, ht.trans hfinal⟩, quiet_of_encTrace hfeeds hquiet⟩

end Sys2Proof.Machine
end

section
/-! SUPPORT. A click needs a whole detent (R147): what the inputs since the last time in `Idle` must
have held, by the state code they lead to. -/

namespace Sys2Proof.Machine

/-- The input that left `Idle` on the way to an intermediate code (decision D9). -/
def firstPattern (c : StateCode) : EncInput :=
  if c.toNat ≤ 3 then 1 else 2

/-- The patterns that must have followed it, in order, to be at this intermediate code. -/
def laterPatterns (c : StateCode) : List EncInput :=
  match c.toNat with
  | 2 => [0]
  | 3 => [0, 2]
  | 5 => [0]
  | 6 => [0, 1]
  | _ => []

/-- A first step: an intermediate code entered from `Idle`. -/
theorem firstPattern_of_idle {input : EncInput} (h : (tableEntry 0#3 input).1 ≠ 0#3) :
    firstPattern (tableEntry 0#3 input).1 = input ∧ laterPatterns (tableEntry 0#3 input).1 = [] := by
  revert input
  decide

/-- A step from one intermediate code to another keeps to its direction, and asks for at most one more
pattern, the input itself (walk-back asks for fewer). -/
theorem laterPatterns_of_step {c : StateCode} {input : EncInput} (hc : c ≠ 0#3)
    (h : (tableEntry c input).1 ≠ 0#3) :
    firstPattern (tableEntry c input).1 = firstPattern c ∧ input ≠ 3#2 ∧
      List.Sublist (laterPatterns (tableEntry c input).1) (laterPatterns c ++ [input]) := by
  revert c input
  decide

/-- A click ends the whole pattern of its direction. -/
theorem patterns_of_click {c : StateCode} {input : EncInput} :
    ((tableEntry c input).2 = 1#2 →
      c ≠ 0#3 ∧ firstPattern c = 1#2 ∧ input ≠ 3#2 ∧ laterPatterns c ++ [input] = [0#2, 2#2, 0#2]) ∧
    ((tableEntry c input).2 = 2#2 →
      c ≠ 0#3 ∧ firstPattern c = 2#2 ∧ input ≠ 3#2 ∧ laterPatterns c ++ [input] = [0#2, 1#2, 0#2]) := by
  revert c input
  decide

/-- The inputs `w` lead from `Idle` to the intermediate code `c`, never back in `Idle`: the first left
`Idle`, the rest held the later patterns and no desynchronized input. -/
structure AwayFromIdle (c : StateCode) (w : List EncInput) : Prop where
  away : ∀ x ∈ encTrace 0#3 w, x.1 ≠ 0#3
  shape : ∃ rest, w = firstPattern c :: rest ∧ List.Sublist (laterPatterns c) rest ∧ 3#2 ∉ rest

/-- The state code of a run from `Idle` splits its inputs at the last time in `Idle`. -/
theorem split_at_last_idle (ins : List EncInput) (hc : encFinal 0#3 ins ≠ 0#3) :
    ∃ pre w, ins = pre ++ w ∧ encFinal 0#3 pre = 0#3 ∧ AwayFromIdle (encFinal 0#3 ins) w := by
  induction ins using List.reverseRecOn with
  | nil => exact absurd rfl hc
  | append_singleton ins input ih =>
    have hstep : encFinal 0#3 (ins ++ [input]) = (tableEntry (encFinal 0#3 ins) input).1 :=
      encFinal_append _ _ _
    rw [hstep] at hc ⊢
    by_cases hidle : encFinal 0#3 ins = 0#3
    · rw [hidle] at hc ⊢
      obtain ⟨hfirst, hlater⟩ := firstPattern_of_idle hc
      refine ⟨ins, [input], rfl, hidle, ⟨fun x hx => ?_, [], ?_, ?_, List.not_mem_nil⟩⟩
      · rw [List.mem_singleton.mp hx]
        exact hc
      · rw [hfirst]
      · rw [hlater]
    · obtain ⟨pre, w, hins, hpre, haway, rest, hw, hlater, hthree⟩ := ih hidle
      obtain ⟨hfirst, hne, hsub⟩ := laterPatterns_of_step hidle hc
      have hmid : encFinal 0#3 w = encFinal 0#3 ins := by
        rw [hins, encFinal_append, hpre]
      refine ⟨pre, w ++ [input], ?_, hpre, ⟨fun x hx => ?_, rest ++ [input], ?_, ?_, ?_⟩⟩
      · rw [hins, List.append_assoc]
      · rw [encTrace_append, List.mem_append] at hx
        rcases hx with hx | hx
        · exact haway x hx
        · rw [hmid] at hx
          rw [List.mem_singleton.mp hx]
          exact hc
      · rw [hfirst, hw, List.cons_append]
      · exact hsub.trans (hlater.append_right [input])
      · simp [hthree, hne.symm]

/-- A fed sequence in two parts: the states of the first part, and the state where the second is fed. -/
theorem feedsEncoder_append {a b : List EncInput} :
    ∀ {s : State}, s.FeedsEncoder (a ++ b) →
      (statesAfter a.length s).map (fun t => (t.encState, t.lastEncEvent)) = encTrace s.encState a ∧
      ∃ u, run a.length s = .next u ∧ u.encState = encFinal s.encState a ∧ u.FeedsEncoder b := by
  induction a with
  | nil => exact fun h => ⟨rfl, _, rfl, rfl, h⟩
  | cons i a ih =>
    intro s h
    obtain ⟨hstep, hcode, hev, hrest⟩ := tick_of_feedsEncoder h
    obtain ⟨htrace, u, hrun, hu, hb⟩ := ih hrest
    refine ⟨?_, u, ?_, ?_, hb⟩
    · rw [List.length_cons, statesAfter_succ_of_step _ hstep, List.map_cons, htrace, hcode, hev]
      rfl
    · rw [List.length_cons, run_succ_of_step _ hstep, hrun]
    · rw [hu, hcode]
      rfl

/-- The event after a fed sequence is that of its last input at the code the others lead to. -/
theorem lastEncEvent_of_run {s t : State} {front : List EncInput} {input : EncInput}
    (h : s.FeedsEncoder (front ++ [input])) (hrun : run (front ++ [input]).length s = .next t) :
    t.lastEncEvent = (tableEntry (encFinal s.encState front) input).2 := by
  obtain ⟨-, u, hu, hcode, hfeeds⟩ := feedsEncoder_append h
  obtain ⟨hstep, -, hev, -⟩ := tick_of_feedsEncoder hfeeds
  rw [List.length_append, run_add _ hu, List.length_singleton, run_succ_of_step 0 hstep, run_zero,
    Host.Outcome.next.injEq] at hrun
  rw [← hrun, hev, hcode]

/-- The conclusion of R147 for a last input that ends the whole pattern of a direction. -/
theorem wholeDetent_of_patterns {s : State} {front : List EncInput} {input : EncInput}
    (hs : s.encState = 0#3) (h : s.FeedsEncoder (front ++ [input]))
    (hc : encFinal 0#3 front ≠ 0#3) (hinput : input ≠ 3#2) :
    ∃ pre rest, front ++ [input] = pre ++ firstPattern (encFinal 0#3 front) :: rest ∧
      (∃ u, run pre.length s = .next u ∧ u.encState = 0#3 ∧
        ∀ v ∈ statesAfter rest.length u, v.encState ≠ 0#3) ∧
      List.Sublist (laterPatterns (encFinal 0#3 front) ++ [input]) rest ∧ 3#2 ∉ rest := by
  obtain ⟨pre, w, hfront, hpre, haway, rest, hw, hlater, hthree⟩ := split_at_last_idle front hc
  rw [hfront, List.append_assoc] at h
  obtain ⟨-, u, hrun, hu, hfeeds⟩ := feedsEncoder_append h
  rw [hs, hpre] at hu
  obtain ⟨htrace, -⟩ := feedsEncoder_append hfeeds
  rw [hu] at htrace
  rw [← htrace, List.forall_mem_map] at haway
  have hlen : (rest ++ [input]).length = w.length := by simp [hw]
  refine ⟨pre, rest ++ [input], ?_, ⟨u, hrun, hu, ?_⟩, hlater.append_right _, ?_⟩
  · rw [← List.cons_append, ← hw, ← List.append_assoc, ← hfront]
  · rwa [hlen]
  · simp [hthree, hinput.symm]

/-- Settles O18: the click's last input ends the patterns that the code before it stands for. -/
theorem clickNeedsAWholeDetent : Obligations.ClickNeedsAWholeDetent := by
  intro s ins t hs hne h hrun
  obtain ⟨front, input, rfl⟩ := List.eq_nil_or_concat' ins |>.resolve_left hne
  rw [lastEncEvent_of_run h hrun, hs]
  refine ⟨fun hclick => ?_, fun hclick => ?_⟩
  · obtain ⟨hc, hfirst, hinput, hpatterns⟩ := patterns_of_click.1 hclick
    rw [← hfirst, ← hpatterns]
    exact wholeDetent_of_patterns hs h hc hinput
  · obtain ⟨hc, hfirst, hinput, hpatterns⟩ := patterns_of_click.2 hclick
    rw [← hfirst, ← hpatterns]
    exact wholeDetent_of_patterns hs h hc hinput

end Sys2Proof.Machine
end

section
/-! SUPPORT. Exchanging the encoder lines exchanges the directions (R101, R61). -/

namespace Sys2Proof.Machine

/-- The encoder input with its two lines exchanged (R61). -/
def mirrorInput (input : EncInput) : EncInput :=
  input.extractLsb' 0 1 ++ input.extractLsb' 1 1

theorem encInput_mirrorParams (p : Params) (raw : BitVec p.rawW) :
    encInput (mirrorParams p) raw = mirrorInput (encInput p raw) := by
  show BitVec.ofBool (raw.getLsbD p.posA) ++ BitVec.ofBool (raw.getLsbD p.posB) =
    mirrorInput (BitVec.ofBool (raw.getLsbD p.posB) ++ BitVec.ofBool (raw.getLsbD p.posA))
  generalize raw.getLsbD p.posA = a, raw.getLsbD p.posB = b
  revert a b
  decide

/-- R101: the table is its own mirror, the reserved code included. -/
theorem decodeStep_mirror (c : StateCode) (input : EncInput) :
    (decodeStep (mirrorCode c) (mirrorInput input)).1.code = mirrorCode (decodeStep c input).1.code ∧
      (decodeStep (mirrorCode c) (mirrorInput input)).2.code =
        mirrorEvent (decodeStep c input).2.code := by
  revert c input
  decide

/-- The filter's part of a tick does not look at the lines that are exchanged, and the decoder's part is
the mirror of the table's entry. -/
theorem afterTick_mirror (s : State) : s.mirror.afterTick = s.afterTick.mirror := by
  have hin : encInput s.mirror.params s.mirror.port.raw = mirrorInput (encInput s.params s.port.raw) :=
    encInput_mirrorParams s.params s.port.raw
  obtain ⟨hcode, hev⟩ := decodeStep_mirror s.encState (encInput s.params s.port.raw)
  rw [← hin] at hcode hev
  exact congrArg₂ (fun c ev => { s.afterTick.mirror with encState := c, lastEncEvent := ev }) hcode hev

/-- One edge of the mirrored state is the mirror of the edge. -/
theorem step_mirror (s : State) : step s.mirror = mirrorOutcome (step s) := by
  rcases step_cases s with ⟨hport, h⟩ | ⟨hport, h⟩ | ⟨hport, h⟩ <;> rw [h]
  · exact step_of_rst (s := s.mirror) hport
  · rw [step_of_tick (s := s.mirror) hport, afterTick_mirror]
    rfl
  · exact step_of_hold (s := s.mirror) hport

/-- Settles O19, by induction on the number of edges. -/
theorem exchangingLinesExchangesDirections : Obligations.ExchangingLinesExchangesDirections := by
  intro n
  induction n with
  | zero => exact fun _ => rfl
  | succ n ih =>
    intro s
    obtain ⟨t, ht, -⟩ := step_next s
    have hmirror : step s.mirror = .next t.mirror := by
      rw [step_mirror, ht]
      rfl
    rw [run_succ_of_step n ht, run_succ_of_step n hmirror, ih t]

end Sys2Proof.Machine
end

section
/-! SUPPORT. Each register has one owner: the decoder and the filter do not read what the other writes
(R21, R22, R51, R193). -/

namespace Sys2Proof.Machine

/-- Settles O26: each component's results are functions of its own operand and its own registers. -/
theorem decoderAndFilterDoNotInteract : Obligations.DecoderAndFilterDoNotInteract := by
  intro s e e' rest he he'
  refine ⟨fun hin h pr => ⟨_, _, step_of_tick he, step_of_tick he', ?_, ?_⟩,
    fun hbtn c ev => ⟨_, _, step_of_tick he, step_of_tick he', fun k => ?_, ?_⟩⟩
  · exact congrArg (fun i => (decodeStep s.encState i).1.code) hin
  · exact congrArg (fun i => (decodeStep s.encState i).2.code) hin
  · exact congrArg (fun b => (sampleStep s.params s.dbHist b).getLsbD k) hbtn
  · exact congrArg (fun b => pressEdge s.params s.dbHist (sampleStep s.params s.dbHist b)) hbtn

/-- Settles O43: the sample operations and a hold carry the state code along, and the outputs are those
of the other registers. -/
theorem encoderStateHasOneOwner : Obligations.EncoderStateHasOneOwner := by
  refine ⟨rfl, fun p ins n t => encState_le_six_of_run, fun i hi s => ?_, fun _ _ => rfl⟩
  rcases hi with rfl | rfl | rfl
  · exact ⟨applySample false s, rfl, rfl, fun _ => rfl⟩
  · exact ⟨applySample true s, rfl, rfl, fun _ => rfl⟩
  · exact ⟨s, rfl, rfl, fun _ => rfl⟩

/-- Settles O44: the sample step by its bits, and the decode operations write their entry whatever the
history is. -/
theorem historyHasOneOwner : Obligations.HistoryHasOneOwner := by
  refine ⟨fun s hp htick => ⟨_, step_of_tick htick, ?_, fun k hk => ?_, fun k hn hw => ?_⟩,
    fun i hi s => ?_⟩
  · exact sampleStep_newest hp s.dbHist _
  · exact sampleStep_window hp s.dbHist _ hk
  · exact sampleStep_guard s.params s.dbHist _ hn hw
  · rcases hi with hqd | rfl
    · obtain ⟨c, input, rfl⟩ := exists_qdKey_of_format_qd hqd
      exact ⟨_, _, fun h => exec_decodeQd c input { s with dbHist := h }⟩
    · exact ⟨s.encState, s.lastEncEvent, fun _ => rfl⟩

end Sys2Proof.Machine
end

section
/-! SUPPORT. One sample of the filter: the constants by their numbers, the level under the guard
invariant, and the edge (R160 to R167, R173, R174). -/

namespace Sys2Proof.Machine

/-! ## Constants -/

/-- R165: the bits above the window, as a number. -/
theorem dbGuard_toNat {p : Params} (hp : p.Wf) :
    (dbGuard p).toNat = (2 ^ p.dbW - 1) - (2 ^ p.dbN - 1) := by
  obtain ⟨-, -, hNW, -⟩ := hp
  have hW : 0 < 2 ^ p.dbW := Nat.two_pow_pos _
  have hN : 0 < 2 ^ p.dbN := Nat.two_pow_pos _
  have hle : 2 ^ p.dbN ≤ 2 ^ p.dbW := Nat.pow_le_pow_right (by decide) hNW
  have hsplit : (2 ^ p.dbW - 1) * 2 ^ p.dbN =
      (2 ^ p.dbW - 2 ^ p.dbN) + 2 ^ p.dbW * (2 ^ p.dbN - 1) := by
    rw [Nat.sub_mul, Nat.mul_sub, Nat.one_mul, Nat.mul_one]
    have : 2 ^ p.dbW ≤ 2 ^ p.dbW * 2 ^ p.dbN := Nat.le_mul_of_pos_right _ hN
    omega
  rw [dbGuard, BitVec.toNat_shiftLeft, BitVec.toNat_allOnes, Nat.shiftLeft_eq, hsplit,
    Nat.add_mul_mod_self_left, Nat.mod_eq_of_lt (by omega)]
  omega

/-- Settles O27: the two constants for all parameters, then the default numbers. -/
theorem guardAndTargetValues : Obligations.GuardAndTargetValues :=
  ⟨fun _ hp => ⟨dbGuard_toNat hp, BitVec.toNat_allOnes⟩, by decide, by decide⟩

/-! ## The level -/

/-- R35: the guard bits of a history are 1. -/
abbrev GuardBitsSet (p : Params) (h : BitVec p.dbW) : Prop :=
  ∀ k < p.dbW, p.dbN ≤ k → h.getLsbD k = true

/-- R35, R167: a sample sets the guard bits, whatever they were. -/
theorem guardBitsSet_sampleStep (p : Params) (h : BitVec p.dbW) (b : Bool) :
    GuardBitsSet p (sampleStep p h b) :=
  fun _ hw hn => sampleStep_guard p h b hn hw

/-- R163, R165: with the guard bits set, the level is a window of ones. -/
theorem stableLevel_iff_window {p : Params} (hp : p.Wf) {h : BitVec p.dbW}
    (hguard : GuardBitsSet p h) :
    stableLevel p h = true ↔ ∀ k < p.dbN, h.getLsbD k = true := by
  obtain ⟨-, -, hNW, -⟩ := hp
  rw [stableLevel_iff]
  refine ⟨fun hall k hk => hall k (by omega), fun hwin k hk => ?_⟩
  by_cases hn : p.dbN ≤ k
  · exact hguard k hk hn
  · exact hwin k (by omega)

/-- Settles O30: the level compares with the target, whose guard bits the history has. -/
theorem levelIsTheFullWindow : Obligations.LevelIsTheFullWindow :=
  fun _ hp => ⟨beq_iff_eq, fun hguard => stableLevel_iff_window hp hguard⟩

/-! ## The edge -/

/-- Without the level there is no edge. -/
theorem pressEdge_of_not_stableLevel {p : Params} {h h' : BitVec p.dbW}
    (hl : stableLevel p h' = false) : pressEdge p h h' = false := by
  rw [pressEdge_eq, hl, Bool.false_and]

/-- R167: with the guard bits set, the edge asks for the level now and for an old 0 at the end of the
window. -/
theorem pressEdge_sampleStep_iff {p : Params} (hp : p.Wf) {h : BitVec p.dbW} (b : Bool)
    (hguard : GuardBitsSet p h) :
    pressEdge p h (sampleStep p h b) = true ↔
      stableLevel p (sampleStep p h b) = true ∧ h.getLsbD (p.dbN - 1) = false := by
  have hN : 1 ≤ p.dbN := hp.2.1
  rw [pressEdge_eq, Bool.and_eq_true, Bool.not_eq_true', ← Bool.not_eq_true,
    stableLevel_iff_window hp hguard, ← Bool.not_eq_true (h.getLsbD _)]
  refine and_congr_right fun hlevel => not_congr ?_
  obtain ⟨-, hlow⟩ := (stableLevel_sampleStep hp h b).mp hlevel
  refine ⟨fun hwin => hwin _ (by omega), fun hold k hk => ?_⟩
  rcases Nat.lt_or_ge (k + 1) p.dbN with hk' | hk'
  · exact hlow k hk'
  · obtain rfl : k = p.dbN - 1 := by omega
    exact hold

/-- Settles O29: the tick's edge is the sample step's. -/
theorem edgeLooksAtTheOldestSample : Obligations.EdgeLooksAtTheOldestSample :=
  fun _ hp hguard htick => ⟨_, step_of_tick htick, pressEdge_sampleStep_iff hp _ hguard⟩

/-! ## The sample operations -/

/-- The two rows of format DB (R161, R162). -/
theorem exec_dbSample (s : State) (b : Bool) :
    exec (if b then .dbSample1 else .dbSample0) s = .next (applySample b s) := by
  cases b <;> rfl

/-- A history without the level has a bit that is 0. -/
theorem not_stableLevel_iff {p : Params} {h : BitVec p.dbW} :
    stableLevel p h = false ↔ ∃ k < p.dbW, h.getLsbD k = false := by
  rw [← Bool.not_eq_true, stableLevel_iff]
  simp

/-- Settles O28: the sample step bit by bit, and the level and the edge after it. -/
theorem sampleOperationsShiftTheHistory : Obligations.SampleOperationsShiftTheHistory := by
  intro s b hp
  refine ⟨_, _, exec_dbSample s b, sampleStep_newest hp _ _, fun k => sampleStep_window hp _ _,
    fun k => sampleStep_guard _ _ _, stableLevel_sampleStep hp s.dbHist b, ?_⟩
  rw [pressEdge_eq, Bool.and_eq_true, Bool.not_eq_true', stableLevel_sampleStep hp,
    not_stableLevel_iff]

/-- R173: a closed sample keeps a full history. -/
theorem sampleStep_of_stableLevel {p : Params} (hp : p.Wf) {h : BitVec p.dbW}
    (hl : stableLevel p h = true) : sampleStep p h true = h := by
  have hnew : stableLevel p (sampleStep p h true) = true := by
    rw [stableLevel_sampleStep hp]
    rw [stableLevel_iff] at hl
    have hNW : p.dbN ≤ p.dbW := hp.2.2.1
    exact ⟨rfl, fun k hk => hl k (by omega)⟩
  exact (beq_iff_eq.mp hnew).trans (beq_iff_eq.mp hl).symm

/-- R174: an open sample drops the level. -/
theorem stableLevel_sampleStep_open {p : Params} (hp : p.Wf) (h : BitVec p.dbW) :
    stableLevel p (sampleStep p h false) = false := by
  rw [← Bool.not_eq_true, stableLevel_sampleStep hp]
  simp

/-- Settles O34: the tick's sample step keeps a full history, or drops the level and with it the edge. -/
theorem heldAndReleasedButton : Obligations.HeldAndReleasedButton := by
  intro s hp htick
  refine ⟨_, step_of_tick htick, fun hbtn hl => ?_, fun hbtn => ?_⟩
  · have hkeep : sampleStep s.params s.dbHist (btnInput s.params s.port.raw) = s.dbHist := by
      rw [hbtn, sampleStep_of_stableLevel hp hl]
    refine ⟨fun k => congrArg (fun h => h.getLsbD k) hkeep,
      (congrArg (stableLevel s.params) hkeep).trans hl, ?_⟩
    rw [afterTick_lastBtnEvent, hkeep, pressEdge_eq, Bool.and_not_self]
  · have hdrop :
        stableLevel s.params (sampleStep s.params s.dbHist (btnInput s.params s.port.raw)) = false := by
      rw [hbtn, stableLevel_sampleStep_open hp]
    exact ⟨hdrop, pressEdge_of_not_stableLevel hdrop⟩

end Sys2Proof.Machine
end

section
/-! SUPPORT. Runs of the filter: the history and the edge after a sequence of samples, as a function of
the samples alone (R168 to R172). -/

namespace Sys2Proof.Machine

/-! ## The history and the edge after a sequence -/

/-- The history after these samples, oldest first. -/
def histAfter (p : Params) (h : BitVec p.dbW) (bs : List Bool) : BitVec p.dbW :=
  bs.foldl (sampleStep p) h

/-- The published edge after these samples; `e` is the one before them. -/
def edgeAfter (p : Params) (h : BitVec p.dbW) (e : Bool) : List Bool → Bool
  | [] => e
  | b :: bs => edgeAfter p (sampleStep p h b) (pressEdge p h (sampleStep p h b)) bs

@[simp] theorem histAfter_nil (p : Params) (h : BitVec p.dbW) : histAfter p h [] = h := rfl

theorem histAfter_concat (p : Params) (h : BitVec p.dbW) (bs : List Bool) (b : Bool) :
    histAfter p h (bs ++ [b]) = sampleStep p (histAfter p h bs) b :=
  List.foldl_concat ..

theorem edgeAfter_concat (p : Params) (h : BitVec p.dbW) (e : Bool) (bs : List Bool) (b : Bool) :
    edgeAfter p h e (bs ++ [b]) =
      pressEdge p (histAfter p h bs) (sampleStep p (histAfter p h bs) b) := by
  induction bs generalizing h e with
  | nil => rfl
  | cons c bs ih => exact ih _ _

/-- A fed button sequence runs, with that history and edge. -/
theorem run_button (bs : List Bool) :
    ∀ s : State, s.FeedsButton bs → ∃ code ev, run bs.length s = .next
      { s with
        encState := code, lastEncEvent := ev
        dbHist := histAfter s.params s.dbHist bs
        lastBtnEvent := edgeAfter s.params s.dbHist s.lastBtnEvent bs
        inputs := s.inputs.drop bs.length } := by
  induction bs with
  | nil => exact fun s _ => ⟨s.encState, s.lastEncEvent, rfl⟩
  | cons b bs ih =>
    intro s h
    obtain ⟨htick, rfl, hrest⟩ := feedsButton_cons h
    obtain ⟨code, ev, hrun⟩ := ih _ hrest
    refine ⟨code, ev, ?_⟩
    rw [List.length_cons, run_succ_of_step _ (step_of_tick htick), hrun, ← List.drop_tail]
    rfl

/-- The edge and the level after each tick of a fed button sequence. -/
theorem statesAfter_button (bs : List Bool) :
    ∀ s : State, s.FeedsButton bs →
      (statesAfter bs.length s).map (fun t => (t.lastBtnEvent, t.outputs.btnStable)) =
        (List.range bs.length).map (fun j =>
          (edgeAfter s.params s.dbHist s.lastBtnEvent (bs.take (j + 1)),
            stableLevel s.params (histAfter s.params s.dbHist (bs.take (j + 1))))) := by
  induction bs with
  | nil => exact fun _ _ => rfl
  | cons b bs ih =>
    intro s h
    obtain ⟨htick, rfl, hrest⟩ := feedsButton_cons h
    rw [List.length_cons, statesAfter_succ_of_step _ (step_of_tick htick), List.map_cons, ih _ hrest,
      List.range_succ_eq_map, List.map_cons, List.map_map]
    rfl

/-! ## The bits of the history -/

/-- R168: the window holds the samples, the newest at bit 0, above them what was there before. -/
theorem histAfter_window {p : Params} (hp : p.Wf) (h : BitVec p.dbW) (bs : List Bool) :
    ∀ k < p.dbN, (histAfter p h bs).getLsbD k = bs.reverse.getD k (h.getLsbD (k - bs.length)) := by
  induction bs using List.reverseRecOn with
  | nil => exact fun k _ => rfl
  | append_singleton bs b ih =>
    intro k hk
    rw [histAfter_concat, List.reverse_concat]
    cases k with
    | zero => exact sampleStep_newest hp _ b
    | succ k =>
      rw [sampleStep_window hp _ b hk, ih k (by omega), List.getD_cons_succ, List.length_append,
        List.length_singleton, Nat.add_sub_add_right]

/-- The samples keep the guard bits set. -/
theorem guardBitsSet_histAfter {p : Params} {h : BitVec p.dbW}
    (hguard : GuardBitsSet p h) (bs : List Bool) : GuardBitsSet p (histAfter p h bs) := by
  cases bs using List.reverseRecOn with
  | nil => exact hguard
  | append_singleton bs b =>
    rw [histAfter_concat]
    exact guardBitsSet_sampleStep p _ b

/-- After at least one sample the level looks at the window alone, whatever the guard bits were. -/
theorem stableLevel_histAfter {p : Params} (hp : p.Wf) (h : BitVec p.dbW) {bs : List Bool}
    (hbs : bs ≠ []) : stableLevel p (histAfter p h bs) = true ↔
      ∀ k < p.dbN, bs.reverse.getD k (h.getLsbD (k - bs.length)) = true := by
  have hguard : GuardBitsSet p (histAfter p h bs) := by
    obtain ⟨front, b, rfl⟩ := (List.eq_nil_or_concat' bs).resolve_left hbs
    rw [histAfter_concat]
    exact guardBitsSet_sampleStep p _ b
  rw [stableLevel_iff_window hp hguard]
  exact forall₂_congr fun k hk => by rw [histAfter_window hp h bs k hk]

/-- An edge after at least one sample means that the level holds. -/
theorem edgeAfter_of_not_stableLevel {p : Params} {h : BitVec p.dbW} {e : Bool} {bs : List Bool}
    (hbs : bs ≠ [] ∨ e = false) (hl : stableLevel p (histAfter p h bs) = false) :
    edgeAfter p h e bs = false := by
  cases bs using List.reverseRecOn with
  | nil => exact hbs.resolve_left (absurd rfl)
  | append_singleton bs b =>
    rw [edgeAfter_concat]
    rw [histAfter_concat] at hl
    exact pressEdge_of_not_stableLevel hl

/-! ## From reset -/

theorem guardBitsSet_dbGuard (p : Params) : GuardBitsSet p (dbGuard p) := by
  intro k hw hn
  rw [dbGuard_getLsbD, decide_eq_true hw, decide_eq_true hn, Bool.and_self]

/-- After reset the time before it reads as open samples (decision D17). -/
theorem histAfter_dbGuard_window {p : Params} (hp : p.Wf) (bs : List Bool) {k : Nat} (hk : k < p.dbN) :
    (histAfter p (dbGuard p) bs).getLsbD k = bs.reverse.getD k false := by
  have hn : ¬ p.dbN ≤ k - bs.length := by omega
  rw [histAfter_window hp _ bs k hk, dbGuard_getLsbD, decide_eq_false hn, Bool.and_false]

/-- After reset the level is a window of ones. -/
theorem stableLevel_histAfter_dbGuard {p : Params} (hp : p.Wf) (bs : List Bool) :
    stableLevel p (histAfter p (dbGuard p) bs) = true ↔
      ∀ k < p.dbN, bs.reverse.getD k false = true := by
  rw [stableLevel_iff_window hp (guardBitsSet_histAfter (guardBitsSet_dbGuard p) bs)]
  exact forall₂_congr fun k hk => by rw [histAfter_dbGuard_window hp bs hk]

/-- Fewer than `DB_N` samples after reset leave an open one in the window. -/
theorem stableLevel_histAfter_of_short {p : Params} (hp : p.Wf) {bs : List Bool}
    (hlen : bs.length < p.dbN) : stableLevel p (histAfter p (dbGuard p) bs) = false := by
  rw [← Bool.not_eq_true, stableLevel_histAfter_dbGuard hp]
  intro hall
  have hlast := hall bs.length hlen
  rw [List.getD_eq_default _ _ (by simp)] at hlast
  exact Bool.false_ne_true hlast

/-- After reset the edge asks in addition for an open sample before the window. -/
theorem edgeAfter_dbGuard {p : Params} (hp : p.Wf) (bs : List Bool) :
    edgeAfter p (dbGuard p) false bs = true ↔
      (∀ k < p.dbN, bs.reverse.getD k false = true) ∧ bs.reverse.getD p.dbN false = false := by
  have hN : 1 ≤ p.dbN := hp.2.1
  rw [← stableLevel_histAfter_dbGuard hp]
  cases bs using List.reverseRecOn with
  | nil =>
    rw [stableLevel_histAfter_of_short (bs := []) hp hN]
    simp [edgeAfter]
  | append_singleton bs b =>
    have hguard := guardBitsSet_histAfter (guardBitsSet_dbGuard p) bs
    rw [edgeAfter_concat, pressEdge_sampleStep_iff hp b hguard,
      histAfter_dbGuard_window hp bs (by omega), ← histAfter_concat, List.reverse_concat,
      ← List.getD_cons_succ (x := b), Nat.sub_add_cancel hN]

/-- Settles O31: the run's history and edge, from the reset value. -/
theorem historyHoldsTheLastSamples : Obligations.HistoryHoldsTheLastSamples := by
  intro p ins bs hp hfeeds
  obtain ⟨code, ev, hrun⟩ := run_button bs _ hfeeds
  exact ⟨_, hrun, fun k hk => histAfter_dbGuard_window hp bs hk,
    guardBitsSet_histAfter (guardBitsSet_dbGuard p) bs, stableLevel_histAfter_dbGuard hp bs,
    edgeAfter_dbGuard hp bs⟩

/-! ## Short runs -/

/-- An open sample among the last `DB_N` drops the level, from any history. -/
theorem stableLevel_histAfter_of_open {p : Params} (hp : p.Wf) (h : BitVec p.dbW) {bs : List Bool}
    (hopen : false ∈ bs) (hlen : bs.length ≤ p.dbN) : stableLevel p (histAfter p h bs) = false := by
  obtain ⟨k, hk, hbit⟩ := List.getElem_of_mem (List.mem_reverse.mpr hopen)
  rw [List.length_reverse] at hk
  rw [not_stableLevel_iff]
  have hNW : p.dbN ≤ p.dbW := hp.2.2.1
  refine ⟨k, by omega, ?_⟩
  rw [histAfter_window hp h bs k (by omega), List.getD_eq_getElem _ _ (by simpa using hk), hbit]

/-- Settles O32: an open sample in the window, fed or from reset, drops the level and with it the edge. -/
theorem shortRunsNeverReport : Obligations.ShortRunsNeverReport := by
  refine ⟨fun s bs hp hfeeds hopen hlen => ?_, fun p ins bs hp hfeeds hlen => ?_⟩
  · obtain ⟨code, ev, hrun⟩ := run_button bs s hfeeds
    have hl := stableLevel_histAfter_of_open hp s.dbHist hopen hlen
    exact ⟨_, hrun, hl, edgeAfter_of_not_stableLevel (.inl (List.ne_nil_of_mem hopen)) hl⟩
  · obtain ⟨code, ev, hrun⟩ := run_button bs _ hfeeds
    have hl := stableLevel_histAfter_of_short hp hlen
    exact ⟨_, hrun, hl, edgeAfter_of_not_stableLevel (.inr rfl) hl⟩

/-! ## One press -/

section Press
variable {p : Params} {h : BitVec p.dbW}

/-- Closed samples on a history whose newest sample is open: the level from the `DB_N`-th on. -/
theorem stableLevel_histAfter_press (hp : p.Wf) (hopen : h.getLsbD 0 = false) (m : Nat) :
    stableLevel p (histAfter p h (List.replicate m true)) = decide (p.dbN ≤ m) := by
  have hW : 1 ≤ p.dbW := hp.1
  have hN : 1 ≤ p.dbN := hp.2.1
  cases m with
  | zero =>
    rw [decide_eq_false (by omega), List.replicate_zero, histAfter_nil, not_stableLevel_iff]
    exact ⟨0, hW, hopen⟩
  | succ m =>
    rw [Bool.eq_iff_iff, stableLevel_histAfter hp h (by simp), decide_eq_true_eq,
      List.reverse_replicate, List.length_replicate]
    refine ⟨fun hall => ?_, fun hle k hk => ?_⟩
    · by_contra hlt
      have hold := hall (m + 1) (by omega)
      rw [List.getD_eq_default _ _ (by simp), Nat.sub_self, hopen] at hold
      exact Bool.false_ne_true hold
    · rw [List.getD_replicate _ (by omega)]

/-- The edge comes with the level, on the `DB_N`-th sample only. -/
theorem edgeAfter_press (hp : p.Wf) (hopen : h.getLsbD 0 = false) (e : Bool) (j : Nat) :
    edgeAfter p h e (List.replicate (j + 1) true) = decide (j + 1 = p.dbN) := by
  have hN : 1 ≤ p.dbN := hp.2.1
  rw [List.replicate_succ', edgeAfter_concat, ← histAfter_concat, ← List.replicate_succ',
    pressEdge_eq, stableLevel_histAfter_press hp hopen, stableLevel_histAfter_press hp hopen,
    ← decide_not, ← Bool.decide_and, decide_eq_decide]
  omega

end Press

/-- Settles O33: after `j + 1` ticks the history has taken `j + 1` closed samples. -/
theorem oneEdgePerPress : Obligations.OneEdgePerPress := by
  intro s m hp hopen hfeeds
  have htrace := statesAfter_button _ s hfeeds
  have hpress : ∀ j ∈ List.range m,
      (edgeAfter s.params s.dbHist s.lastBtnEvent ((List.replicate m true).take (j + 1)),
        stableLevel s.params (histAfter s.params s.dbHist ((List.replicate m true).take (j + 1)))) =
      (decide (j + 1 = s.params.dbN), decide (s.params.dbN ≤ j + 1)) := by
    intro j hj
    rw [List.take_replicate, Nat.min_eq_left (List.mem_range.mp hj), edgeAfter_press hp hopen,
      stableLevel_histAfter_press hp hopen]
  rw [List.length_replicate, List.map_congr_left hpress] at htrace
  constructor
  · simpa [Function.comp_def] using congrArg (List.map Prod.fst) htrace
  · simpa [Function.comp_def] using congrArg (List.map Prod.snd) htrace

end Sys2Proof.Machine
end
